-- ==== Sys2Proof/Word.lean ====
section
/-! DEFINITION. The words of the block: bytes, 16-bit halves, 32-bit registers, 64-bit command and response words
(00_scope.md R5 parameters CMDW and DW, R7 bit numbering). -/

namespace Sys2Proof

/-- One byte: a byte of AUD, an opcode, a register or bin index, a status code. -/
abbrev Byte := BitVec 8

/-- A 16-bit half: a PCM sample, a frame count, the `aux16` field. -/
abbrev Half := BitVec 16

/-- A 32-bit register (DW = 32). A `u32` register is read with `toNat`, an `s32` register with `toInt` (R8). -/
abbrev Word := BitVec 32

/-- A command word or a response word (CMDW = 64). -/
abbrev CmdWord := BitVec 64

end Sys2Proof
end

