-- ==== Sys2Proof/Syntax.lean ====
section
/-! DEFINITION. The 23 commands of 30_encoding.md R106, one constructor per row of spec/opcode_table.json, each with
the operand fields its format gives it (R100 to R105). -/

namespace Sys2Proof

/-- A legal command. Operands hold the bits of their field; how they are read (zext, sext) is the meaning's (R105). -/
inductive Instr where
  /-- NOP, `opc` 0x00. -/
  | nop
  /-- RDREG reg, `opc` 0x01. -/
  | rdreg (idx : Byte)
  /-- WRREG reg, value, `opc` 0x02. -/
  | wrreg (idx : Byte) (value : Word)
  /-- SRESET, `opc` 0x03. -/
  | sreset
  /-- RDBIN i, `opc` 0x04. -/
  | rdbin (idx : Byte)
  /-- FLT_STEP pcm, `opc` 0x10; the operand is `op32[15:0]`. -/
  | fltStep (pcm : Half)
  /-- NRM_STEP e, `opc` 0x18. -/
  | nrmStep (e : Word)
  /-- TRK_INIT, `opc` 0x20. -/
  | trkInit
  /-- TRK_UPDATE s, `opc` 0x21. -/
  | trkUpdate (sample : Word)
  /-- TRK_MID, `opc` 0x22. -/
  | trkMid
  /-- TRK_POS, `opc` 0x23. -/
  | trkPos
  /-- TRK_NEG, `opc` 0x24. -/
  | trkNeg
  /-- EDG_UPDATE s, `opc` 0x28. -/
  | edgUpdate (sample : Word)
  /-- NSTEP s, `opc` 0x30. -/
  | nstep (sample : Word)
  /-- PROC_BLOCK base, count, `opc` 0x31; `imm16` is the count, `op32` the base. -/
  | procBlock (count : Half) (base : Word)
  /-- EVT_SUBMIT ev, `opc` 0x32. -/
  | evtSubmit (ev : Word)
  /-- HIST_INIT, `opc` 0x40. -/
  | histInit
  /-- HIST_ADD d, `opc` 0x41. -/
  | histAdd (duration : Word)
  /-- HIST_DECAY, `opc` 0x42. -/
  | histDecay
  /-- HIST_PEAKS, `opc` 0x43. -/
  | histPeaks
  /-- HIST_THR, `opc` 0x44. -/
  | histThr
  /-- DEC_STEP, `opc` 0x50. -/
  | decStep
  /-- DEC_TIMEOUT, `opc` 0x51. -/
  | decTimeout
  deriving DecidableEq, Repr

/-- The command classes of 30_encoding.md R106: control, producer domain, consumer domain. -/
inductive CmdClass where
  | control
  | producer
  | consumer
  deriving DecidableEq, Repr

/-- The class column of R106. -/
def Instr.cmdClass : Instr → CmdClass
  | .nop | .rdreg _ | .wrreg _ _ | .sreset | .rdbin _ => .control
  | .fltStep _ | .nrmStep _ | .trkInit | .trkUpdate _ | .trkMid | .trkPos | .trkNeg | .edgUpdate _ | .nstep _
  | .procBlock _ _ | .evtSubmit _ => .producer
  | .histInit | .histAdd _ | .histDecay | .histPeaks | .histThr | .decStep | .decTimeout => .consumer

/-- The READY bits of R106's "needs" column. -/
inductive Needs where
  | none
  | trkReady
  | histReady
  deriving DecidableEq, Repr

/-- The "needs" column of R106. -/
def Instr.needs : Instr → Needs
  | .nop | .rdreg _ | .wrreg _ _ | .sreset | .rdbin _ | .fltStep _ | .nrmStep _ | .trkInit | .evtSubmit _
  | .histInit => .none
  | .trkUpdate _ | .trkMid | .trkPos | .trkNeg | .edgUpdate _ | .nstep _ | .procBlock _ _ => .trkReady
  | .histAdd _ | .histDecay | .histPeaks | .histThr | .decStep | .decTimeout => .histReady

/-- The `opc` column of R106. -/
def Instr.opc : Instr → Byte
  | .nop => 0x00#8
  | .rdreg _ => 0x01#8
  | .wrreg _ _ => 0x02#8
  | .sreset => 0x03#8
  | .rdbin _ => 0x04#8
  | .fltStep _ => 0x10#8
  | .nrmStep _ => 0x18#8
  | .trkInit => 0x20#8
  | .trkUpdate _ => 0x21#8
  | .trkMid => 0x22#8
  | .trkPos => 0x23#8
  | .trkNeg => 0x24#8
  | .edgUpdate _ => 0x28#8
  | .nstep _ => 0x30#8
  | .procBlock _ _ => 0x31#8
  | .evtSubmit _ => 0x32#8
  | .histInit => 0x40#8
  | .histAdd _ => 0x41#8
  | .histDecay => 0x42#8
  | .histPeaks => 0x43#8
  | .histThr => 0x44#8
  | .decStep => 0x50#8
  | .decTimeout => 0x51#8

end Sys2Proof
end

