-- ==== Sys2Proof/WellFormed.lean ====
section
/-! DEFINITION. What is well formed. A command WORD is well formed when it is one row's opcode with all of that row's
MBZ bits zero (30_encoding.md R106, R108); the rows are copied from spec/opcode_table.json. A TERM of Instr always is:
its operand types carry exactly the bits of the fields (R100 to R105). -/

namespace Sys2Proof

/-- One row of spec/opcode_table.json: `w` is this command and legal exactly when `w & legalMask = pattern` (R106). -/
structure OpRow where
  mnemonic : String
  pattern : CmdWord
  legalMask : CmdWord
  deriving DecidableEq, Repr

/-- The `match` and `legal_mask` columns of spec/opcode_table.json, in its order. -/
def opTable : List OpRow := [
  ⟨"NOP", 0x0000000000000000#64, 0xFFFFFFFFFFFFFFFF#64⟩,
  ⟨"RDREG", 0x0100000000000000#64, 0xFF00FFFFFFFFFFFF#64⟩,
  ⟨"WRREG", 0x0200000000000000#64, 0xFF00FFFF00000000#64⟩,
  ⟨"SRESET", 0x0300000000000000#64, 0xFFFFFFFFFFFFFFFF#64⟩,
  ⟨"RDBIN", 0x0400000000000000#64, 0xFF00FFFFFFFFFFFF#64⟩,
  ⟨"FLT_STEP", 0x1000000000000000#64, 0xFFFFFFFFFFFF0000#64⟩,
  ⟨"NRM_STEP", 0x1800000000000000#64, 0xFFFFFFFF00000000#64⟩,
  ⟨"TRK_INIT", 0x2000000000000000#64, 0xFFFFFFFFFFFFFFFF#64⟩,
  ⟨"TRK_UPDATE", 0x2100000000000000#64, 0xFFFFFFFF00000000#64⟩,
  ⟨"TRK_MID", 0x2200000000000000#64, 0xFFFFFFFFFFFFFFFF#64⟩,
  ⟨"TRK_POS", 0x2300000000000000#64, 0xFFFFFFFFFFFFFFFF#64⟩,
  ⟨"TRK_NEG", 0x2400000000000000#64, 0xFFFFFFFFFFFFFFFF#64⟩,
  ⟨"EDG_UPDATE", 0x2800000000000000#64, 0xFFFFFFFF00000000#64⟩,
  ⟨"NSTEP", 0x3000000000000000#64, 0xFFFFFFFF00000000#64⟩,
  ⟨"PROC_BLOCK", 0x3100000000000000#64, 0xFFFF000000000000#64⟩,
  ⟨"EVT_SUBMIT", 0x3200000000000000#64, 0xFFFFFFFF00000000#64⟩,
  ⟨"HIST_INIT", 0x4000000000000000#64, 0xFFFFFFFFFFFFFFFF#64⟩,
  ⟨"HIST_ADD", 0x4100000000000000#64, 0xFFFFFFFF00000000#64⟩,
  ⟨"HIST_DECAY", 0x4200000000000000#64, 0xFFFFFFFFFFFFFFFF#64⟩,
  ⟨"HIST_PEAKS", 0x4300000000000000#64, 0xFFFFFFFFFFFFFFFF#64⟩,
  ⟨"HIST_THR", 0x4400000000000000#64, 0xFFFFFFFFFFFFFFFF#64⟩,
  ⟨"DEC_STEP", 0x5000000000000000#64, 0xFFFFFFFFFFFFFFFF#64⟩,
  ⟨"DEC_TIMEOUT", 0x5100000000000000#64, 0xFFFFFFFFFFFFFFFF#64⟩]

/-- R106, last sentence: the word is this row's command with all its MBZ bits zero. -/
def OpRow.accepts (r : OpRow) (w : CmdWord) : Bool := w &&& r.legalMask == r.pattern

/-- R108: the word is one of the 23 commands with all its MBZ fields zero; every other word is illegal. -/
def wellFormedWord (w : CmdWord) : Bool := opTable.any fun r => r.accepts w

/-- Every term of Instr is well formed: each operand has exactly the width of its field, so no check is left for the
term (R100 to R105). The checks R108 makes are made on words, by `wellFormedWord`. -/
def Instr.wellFormed (_ : Instr) : Bool := true

end Sys2Proof
end

