-- ==== Sys2Proof/Decode.lean ====
section
/-! DEFINITION. The decoder: total on 64-bit words, `none` for an illegal word (30_encoding.md R108); and the encoder
after it (R100 to R106). There is no instruction memory: a word comes from the command port (10_state.md R21), and the
block has no byte order for it (20_memory.md R82). -/

namespace Sys2Proof

/-- `opc`, bits 63:56 of a command word (R100). -/
def opcField (w : CmdWord) : Byte := w.extractLsb' 56 8

/-- `idx`, bits 55:48 (R100). -/
def idxField (w : CmdWord) : Byte := w.extractLsb' 48 8

/-- `imm16`, bits 47:32 (R100). -/
def immField (w : CmdWord) : Half := w.extractLsb' 32 16

/-- `op32`, bits 31:0 (R100). -/
def opField (w : CmdWord) : Word := w.extractLsb' 0 32

/-- Format N (R101): `idx`, `imm16` and `op32` are MBZ. -/
def decodeN (w : CmdWord) (i : Instr) : Option Instr :=
  if idxField w = 0#8 ∧ immField w = 0#16 ∧ opField w = 0#32 then some i else none

/-- Format R of RDREG and RDBIN (R102): `imm16` and `op32` are MBZ. -/
def decodeR (w : CmdWord) (i : Byte → Instr) : Option Instr :=
  if immField w = 0#16 ∧ opField w = 0#32 then some (i (idxField w)) else none

/-- Format R of WRREG (R102): `imm16` is MBZ. -/
def decodeRW (w : CmdWord) (i : Byte → Word → Instr) : Option Instr :=
  if immField w = 0#16 then some (i (idxField w) (opField w)) else none

/-- Format V (R103): `idx` and `imm16` are MBZ. -/
def decodeV (w : CmdWord) (i : Word → Instr) : Option Instr :=
  if idxField w = 0#8 ∧ immField w = 0#16 then some (i (opField w)) else none

/-- Format V of FLT_STEP (R103): `op32[31:16]` is MBZ too. -/
def decodePcm (w : CmdWord) (i : Half → Instr) : Option Instr :=
  if idxField w = 0#8 ∧ immField w = 0#16 ∧ (opField w).extractLsb' 16 16 = 0#16 then
    some (i ((opField w).extractLsb' 0 16))
  else none

/-- Format B (R104): `idx` is MBZ. -/
def decodeB (w : CmdWord) (i : Half → Word → Instr) : Option Instr :=
  if idxField w = 0#8 then some (i (immField w) (opField w)) else none

/-- The opcode map of R106: a command is selected by `opc` alone, then its MBZ fields are checked (R108). -/
def decode (w : CmdWord) : Option Instr :=
  match (opcField w).toNat with
  | 0x00 => decodeN w .nop
  | 0x01 => decodeR w .rdreg
  | 0x02 => decodeRW w .wrreg
  | 0x03 => decodeN w .sreset
  | 0x04 => decodeR w .rdbin
  | 0x10 => decodePcm w .fltStep
  | 0x18 => decodeV w .nrmStep
  | 0x20 => decodeN w .trkInit
  | 0x21 => decodeV w .trkUpdate
  | 0x22 => decodeN w .trkMid
  | 0x23 => decodeN w .trkPos
  | 0x24 => decodeN w .trkNeg
  | 0x28 => decodeV w .edgUpdate
  | 0x30 => decodeV w .nstep
  | 0x31 => decodeB w .procBlock
  | 0x32 => decodeV w .evtSubmit
  | 0x40 => decodeN w .histInit
  | 0x41 => decodeV w .histAdd
  | 0x42 => decodeN w .histDecay
  | 0x43 => decodeN w .histPeaks
  | 0x44 => decodeN w .histThr
  | 0x50 => decodeN w .decStep
  | 0x51 => decodeN w .decTimeout
  | _ => none

/-- The word with the given fields (R100). -/
def packWord (opc idx : Byte) (imm : Half) (op : Word) : CmdWord := opc ++ idx ++ imm ++ op

/-- The encoder: the word of a command, field by field from R101 to R104 and the opcode map of R106. -/
def encode : Instr → CmdWord
  | .nop => packWord 0x00#8 0#8 0#16 0#32
  | .rdreg idx => packWord 0x01#8 idx 0#16 0#32
  | .wrreg idx v => packWord 0x02#8 idx 0#16 v
  | .sreset => packWord 0x03#8 0#8 0#16 0#32
  | .rdbin idx => packWord 0x04#8 idx 0#16 0#32
  | .fltStep pcm => packWord 0x10#8 0#8 0#16 (0#16 ++ pcm)
  | .nrmStep e => packWord 0x18#8 0#8 0#16 e
  | .trkInit => packWord 0x20#8 0#8 0#16 0#32
  | .trkUpdate v => packWord 0x21#8 0#8 0#16 v
  | .trkMid => packWord 0x22#8 0#8 0#16 0#32
  | .trkPos => packWord 0x23#8 0#8 0#16 0#32
  | .trkNeg => packWord 0x24#8 0#8 0#16 0#32
  | .edgUpdate v => packWord 0x28#8 0#8 0#16 v
  | .nstep v => packWord 0x30#8 0#8 0#16 v
  | .procBlock count base => packWord 0x31#8 0#8 count base
  | .evtSubmit ev => packWord 0x32#8 0#8 0#16 ev
  | .histInit => packWord 0x40#8 0#8 0#16 0#32
  | .histAdd d => packWord 0x41#8 0#8 0#16 d
  | .histDecay => packWord 0x42#8 0#8 0#16 0#32
  | .histPeaks => packWord 0x43#8 0#8 0#16 0#32
  | .histThr => packWord 0x44#8 0#8 0#16 0#32
  | .decStep => packWord 0x50#8 0#8 0#16 0#32
  | .decTimeout => packWord 0x51#8 0#8 0#16 0#32

/-- The command word whose low `nbits` bits are `w` and whose other bits are 0 (log 12). -/
def tableWord (nbits w : Nat) : CmdWord := BitVec.ofNat 64 (w % 2 ^ nbits)

/-- The instruction the decoder reads from a word given as spec/opcode_table.json numbers its bits. -/
def decodeTableWord (nbits w : Nat) : Option Instr := decode (tableWord nbits w)

end Sys2Proof
end

