-- ==== Sys2Proof/Config.lean ====
section
/-! DEFINITION. The fixed parameters of 00_scope.md R5, each at the value the spec states (log 9), and the one value
the model fixes that the spec leaves open: what an unlisted byte of AUD reads as (log 4). -/

namespace Sys2Proof.Config

/-- ID register constant, ASCII "MRD1" (10_state.md R30). -/
@[simp] abbrev idValue : Word := 0x4D524431#32

/-- FRAC: a PCM sample enters the chain shifted left by 8, that is times 256 (R5, R10). -/
@[simp] abbrev pcmScale : Int := 256

/-- CFRAC: fraction bits of a filter coefficient (R5). -/
@[simp] abbrev cfrac : Nat := 30

/-- log2 of NORM_FULL = 2^30 (R5). -/
@[simp] abbrev normBits : Nat := 30

/-- NORM_CEIL = 2^30 - 1, the largest normalized sample (R5). -/
@[simp] abbrev normCeil : Int := 1073741823

/-- QDEPTH, the capacity of the event queue (R5). -/
@[simp] abbrev qDepth : Nat := 16

/-- NBINS_MAX, the number of histogram cells (R5). -/
@[simp] abbrev nbinsMax : Nat := 256

/-- BINFRAC = 16: one counted sample is 65536 (R5, R10). -/
@[simp] abbrev binOne : Nat := 65536

/-- AUD_BYTES, the size of AUD (R5). -/
@[simp] abbrev audBytes : Nat := 4096

/-- BLOCK_MAX, the most frames one PROC_BLOCK may process (R5). -/
@[simp] abbrev blockMax : Nat := 1024

/-- WORD_FACTOR (R5). -/
@[simp] abbrev wordFactor : Nat := 3

/-- MID_INIT, the midpoint of the tracker's initial range (R5). -/
@[simp] abbrev midInit : Int := 0

/-- The largest legal sample operand, 2^31 - 1 (43_threshold_tracker.md R192). -/
@[simp] abbrev sampleMax : Nat := 0x7FFFFFFF

/-- What a byte of AUD that the memory list does not name reads as. DESIGN CHOICE, unsafe, log 4: the spec leaves the
contents of AUD after hardware reset unspecified (20_memory.md R87) and a model takes them as an argument. -/
@[simp] abbrev audUnlisted : Byte := 0#8

end Sys2Proof.Config
end

