-- ==== Sys2Proof/Machine/State.lean ====
section
/-! DEFINITION. The complete architectural state of 10_state.md R20 as plain data, the model's own input and output
streams (R63, log 1, log 3), the reset state of 70_reset_and_hazards.md R341, and the reasons a step could stop. -/

namespace Sys2Proof.Machine

/-- Why a step stops with a fault. No step does (60_exceptions.md R314). -/
inductive Fault where
  /-- A 16-bit access outside AUD's addresses 0 .. 4095 (20_memory.md R80). Raised by `Memory.readHalf` and
  `Memory.writeHalf` through PROC_BLOCK, whose region check (R83) excludes it: no step answers it. Safe. -/
  | audOutside
  deriving DecidableEq, Repr

/-- Why a step is refused. -/
inductive Refusal where
  /-- An instruction without a meaning, by its mnemonic; raised by `exec` alone. Every command has its meaning, so
  nothing raises it. Safe. -/
  | notModelled (mnemonic : String)
  deriving DecidableEq, Repr

/-- The status codes of 60_exceptions.md R310. -/
inductive StatusCode where
  | ok
  | empty
  | qfull
  | invalidArg
  | notInit
  | badReg
  | addrErr
  | notIdle
  | illegalCmd
  deriving DecidableEq, Repr

/-- The symbols of 47_classifier.md R292; no other code is ever emitted. -/
inductive Symbol where
  | dit
  | dah
  | letter
  | word
  | flush
  deriving DecidableEq, Repr

/-- The mapped registers, in the order of the table of 10_state.md R23. -/
inductive Reg where
  | ID | STATUS | CTRL | QCOUNT | QDROP
  | BPF_B0 | BPF_B1 | BPF_B2 | BPF_A1 | BPF_A2 | BPF_X1 | BPF_X2 | BPF_Y1 | BPF_Y2
  | LPF_B0 | LPF_B1 | LPF_B2 | LPF_A1 | LPF_A2 | LPF_X1 | LPF_X2 | LPF_Y1 | LPF_Y2
  | NORM_DECAY | NORM_EPS | SMAX | SMIN
  | TRK_DECAY_STEP | TRK_MIN_RANGE | TRK_MIN | TRK_MAX | EDGE_COUNT
  | HIST_MIN_VAL | HIST_MAX_VAL | HIST_NBINS | HIST_SPREAD | HIST_DECAY | T_CUR
  deriving DecidableEq, Repr

/-- AUD as its bytes that differ from what an unlisted byte reads as, addresses strictly rising (`Memory.wf`). -/
abbrev Memory := List Host.Cell

/-- What the host does at its ports, one move at a time (10_state.md R22; log 1, log 5, log 6, log 7). -/
inductive HostMove where
  /-- A command word is transferred on the command port. -/
  | command (w : CmdWord)
  /-- The host writes the AUD halfword at byte address `2 * half`. -/
  | audWrite (half : BitVec 11) (v : Half)
  /-- The host reads the AUD halfword at byte address `2 * half`. -/
  | audRead (half : BitVec 11)
  /-- Hardware reset; `contents` are the AUD bytes found afterwards (20_memory.md R87). -/
  | hardReset (contents : List Host.Cell)
  deriving DecidableEq, Repr

/-- The bits of STATUS (10_state.md R32, R33). -/
structure Status where
  trkReady : Bool
  histReady : Bool
  edgeValid : Bool
  below : Bool
  idleFlushed : Bool
  qovf : Bool
  corr : Bool
  err : Bool
  illcmd : Bool
  fsat : Bool
  deriving DecidableEq, Repr

/-- One biquad section: coefficients (10_state.md R40, R42) and delay line (R41, R43), all s32. -/
structure Biquad where
  b0 : Word
  b1 : Word
  b2 : Word
  a1 : Word
  a2 : Word
  x1 : Word
  x2 : Word
  y1 : Word
  y2 : Word
  deriving DecidableEq, Repr

/-- The normalizer: NORM_DECAY and NORM_EPS (u32, 10_state.md R44, R45), SMAX and SMIN (s32, R46). -/
structure Normalizer where
  decay : Word
  eps : Word
  smax : Word
  smin : Word
  deriving DecidableEq, Repr

/-- The tracker: TRK_DECAY_STEP and TRK_MIN_RANGE (u32, 10_state.md R47, R48), TRK_MIN and TRK_MAX (s32, R49). -/
structure Tracker where
  decayStep : Word
  minRange : Word
  tmin : Word
  tmax : Word
  deriving DecidableEq, Repr

/-- The histogram: HIST_MIN_VAL, HIST_MAX_VAL, HIST_NBINS, HIST_SPREAD, HIST_DECAY (u32, 10_state.md R51 to R54), the
256 bin cells (u32, R60), and the classifier's threshold T_CUR (u32, R55). -/
structure Histogram where
  minVal : Word
  maxVal : Word
  nbins : Word
  spread : Word
  decay : Word
  bins : List Word
  tCur : Word
  deriving DecidableEq, Repr

/-- The state of the block (10_state.md R20), then the model's own streams. -/
structure State where
  /-- STATUS (R31 to R33). -/
  status : Status
  /-- CTRL (R35). -/
  ctrl : Word
  /-- QDROP (R37). -/
  qdrop : Word
  /-- The bandpass section (R40, R41). -/
  bpf : Biquad
  /-- The lowpass section (R42, R43). -/
  lpf : Biquad
  /-- The normalizer (R44 to R46). -/
  norm : Normalizer
  /-- The tracker (R47 to R49). -/
  trk : Tracker
  /-- EDGE_COUNT (R50). -/
  edgeCount : Word
  /-- The histogram and T_CUR (R51 to R55, R60). -/
  hist : Histogram
  /-- The event queue, s32 entries, oldest first (R61). -/
  queue : List Word
  /-- AUD (20_memory.md R80). -/
  aud : Memory
  /-- The model's own: the host moves still to come (log 1). -/
  input : List HostMove
  /-- The model's own: the response words transferred so far (R63, log 3). -/
  rsp : List CmdWord
  /-- The model's own: the symbols transferred so far (R63, log 3). -/
  sym : List Symbol
  /-- The model's own: the halfwords the host has read from AUD so far (log 6). -/
  audOut : List Half
  deriving DecidableEq, Repr

/-- STATUS after reset: 0x00000010, only IDLE_FLUSHED set (10_state.md R31). -/
def Status.reset : Status where
  trkReady := false
  histReady := false
  edgeValid := false
  below := false
  idleFlushed := true
  qovf := false
  corr := false
  err := false
  illcmd := false
  fsat := false

/-- A biquad section after reset: the identity, with an empty delay line (10_state.md R40 to R43). -/
def Biquad.reset : Biquad where
  b0 := 0x40000000#32
  b1 := 0#32
  b2 := 0#32
  a1 := 0#32
  a2 := 0#32
  x1 := 0#32
  x2 := 0#32
  y1 := 0#32
  y2 := 0#32

/-- The state after reset with the given AUD contents (70_reset_and_hazards.md R341; AUD by 20_memory.md R87, log 5). -/
def State.afterReset (aud : Memory) : State where
  status := Status.reset
  ctrl := 0x00000002#32
  qdrop := 0#32
  bpf := Biquad.reset
  lpf := Biquad.reset
  norm := { decay := 655#32, eps := 26#32, smax := 0#32, smin := 0#32 }
  trk := { decayStep := 0#32, minRange := 0#32, tmin := 0#32, tmax := 0#32 }
  edgeCount := 0#32
  hist :=
    { minVal := 0#32, maxVal := 0#32, nbins := 0#32, spread := 0#32, decay := 0#32,
      bins := List.replicate Config.nbinsMax 0#32, tCur := 0xFFFFFFFF#32 }
  queue := []
  aud := aud
  input := []
  rsp := []
  sym := []
  audOut := []

/-- The machine right after reset, with no byte of AUD listed (log 4) and no host move pending (log 1). -/
def State.reset : State := State.afterReset []

end Sys2Proof.Machine
end

