-- ==== Sys2Proof/Machine/Operands.lean ====
section
/-! DEFINITION. How operands and registers are read as integers and how results are narrowed: the arithmetic
primitives of 00_scope.md R9 and the operand table of 30_encoding.md R105. `zext` is `BitVec.toNat`, `sext` is
`BitVec.toInt`. -/

namespace Sys2Proof.Machine

/-- `x >> k` on an integer: the arithmetic shift right, floor (x / 2^k), also for negative x (R9). -/
def asr (x : Int) (k : Nat) : Int := x / 2 ^ k

/-- `sat32` (R9), without its effect on FSAT. -/
def sat32 (x : Int) : Int :=
  if x > 2147483647 then 2147483647 else if x < -2147483648 then -2147483648 else x

/-- `sat32` changes its argument: the condition under which it sets FSAT (R9; 10_state.md R34). -/
def sat32Clips (x : Int) : Bool := decide (x > 2147483647 ∨ x < -2147483648)

/-- `satu32` (R9). -/
def satu32 (x : Nat) : Nat := if x > 4294967295 then 4294967295 else x

/-- A register given an integer: the 32-bit field, `v mod 2^32` (R8). Every rule narrows by a named saturation or
stays in range; what happens outside the range, in states no run reaches, is log 11. -/
def toReg (v : Int) : Word := BitVec.ofInt 32 v

/-- A `u32` register given a natural number (R8, log 11). -/
def toRegU (v : Nat) : Word := BitVec.ofNat 32 v

/-- The sample operand of TRK_UPDATE, EDG_UPDATE and NSTEP is legal (43_threshold_tracker.md R192). -/
def sampleLegal (sample : Word) : Bool := decide (sample.toNat ≤ Config.sampleMax)

end Sys2Proof.Machine
end

