-- ==== Sys2Proof/Machine/Flags.lean ====
section
/-! DEFINITION. STATUS: its assembly for a read, write-one-to-clear, and the setting of each sticky flag
(10_state.md R31 to R34; 60_exceptions.md R312). A flag that is already 1 stays 1 (R33). -/

namespace Sys2Proof.Machine

/-- STATUS as RDREG reads it: bits 12..8 sticky flags, bits 4..0 status bits, all others 0 (R31 to R33). -/
def Status.toWord (st : Status) : Word :=
  0#19 ++ BitVec.ofBool st.fsat ++ BitVec.ofBool st.illcmd ++ BitVec.ofBool st.err ++ BitVec.ofBool st.corr
    ++ BitVec.ofBool st.qovf ++ 0#3 ++ BitVec.ofBool st.idleFlushed ++ BitVec.ofBool st.below
    ++ BitVec.ofBool st.edgeValid ++ BitVec.ofBool st.histReady ++ BitVec.ofBool st.trkReady

/-- A WRREG to STATUS: every sticky flag whose bit is 1 in `v` is cleared, all else stays (R31). -/
def Status.clearSticky (st : Status) (v : Word) : Status :=
  { st with
    qovf := st.qovf && !v.getLsbD 8
    corr := st.corr && !v.getLsbD 9
    err := st.err && !v.getLsbD 10
    illcmd := st.illcmd && !v.getLsbD 11
    fsat := st.fsat && !v.getLsbD 12 }

/-- The sticky flag a failure status sets: ERR for 0x10 to 0x14, ILLCMD for 0x1F, none below 0x10 (R312). -/
def Status.recordFailure (st : Status) (c : StatusCode) : Status :=
  match c with
  | .ok | .empty | .qfull => st
  | .invalidArg | .notInit | .badReg | .addrErr | .notIdle => { st with err := true }
  | .illegalCmd => { st with illcmd := true }

/-- FSAT after a `sat32`: set if it clipped (R34). -/
def Status.recordClip (st : Status) (clipped : Bool) : Status := { st with fsat := st.fsat || clipped }

/-- CORR after a tracker update: set if the range had to be restored (43_threshold_tracker.md R195). -/
def Status.recordCorrection (st : Status) (corrected : Bool) : Status := { st with corr := st.corr || corrected }

end Sys2Proof.Machine
end

