-- ==== Sys2Proof/Machine/Ops.lean ====
section
/-! DEFINITION. The shared operations: the response word, `raise` (the block's failure mechanism), `emit`, the event
queue, AUD, and the register file. -/

namespace Sys2Proof.Machine

/-! ## Responses and failures -/

/-- The status codes (60_exceptions.md R310). -/
def StatusCode.code : StatusCode → Byte
  | .ok => 0x00#8
  | .empty => 0x01#8
  | .qfull => 0x02#8
  | .invalidArg => 0x10#8
  | .notInit => 0x11#8
  | .badReg => 0x12#8
  | .addrErr => 0x13#8
  | .notIdle => 0x14#8
  | .illegalCmd => 0x1F#8

/-- The response word: status, opcode echo, `aux16`, `result32` (30_encoding.md R107). -/
def responseWord (c : StatusCode) (opc : Byte) (aux : Half) (result : Word) : CmdWord :=
  c.code ++ opc ++ aux ++ result

/-- The `status` field of a response word (R107). -/
def rspStatus (w : CmdWord) : Byte := w.extractLsb' 56 8

/-- The `opc_echo` field of a response word (R107). -/
def rspOpc (w : CmdWord) : Byte := w.extractLsb' 48 8

/-- The `aux16` field of a response word (R107). -/
def rspAux (w : CmdWord) : Half := w.extractLsb' 32 16

/-- The `result32` field of a response word (R107). -/
def rspResult (w : CmdWord) : Word := w.extractLsb' 0 32

/-- Transfer one response word (R107). -/
def State.respond (s : State) (c : StatusCode) (opc : Byte) (aux : Half) (result : Word) : State :=
  { s with rsp := s.rsp ++ [responseWord c opc aux result] }

/-- `raise X` (00_scope.md R9; 60_exceptions.md R312): the sticky flag of X is set, the response carries X, the echoed
opcode and zeros, and nothing else changes (R311, R315). This is the spec's one failure mechanism, where an
instruction-set processor would take an exception; there is no trap entry and no return from one (R323). -/
def State.raise (s : State) (c : StatusCode) (opc : Byte) : State :=
  { s with status := s.status.recordFailure c }.respond c opc 0#16 0#32

/-- What an illegal word does: `raise ILLEGAL_CMD` with the word's own opcode echoed (30_encoding.md R108). -/
def raiseIllegal (w : CmdWord) (s : State) : State := s.raise .illegalCmd (w.extractLsb' 56 8)

/-! ## Symbols -/

/-- The symbol codes (47_classifier.md R292). -/
def Symbol.code : Symbol → Byte
  | .dit => 0x01#8
  | .dah => 0x02#8
  | .letter => 0x03#8
  | .word => 0x04#8
  | .flush => 0x05#8

/-- `emit(c)` (R292). -/
def State.emit (s : State) (c : Symbol) : State := { s with sym := s.sym ++ [c] }

/-- `s1 | (s2 << 8)`, the `aux16` of DEC_STEP and DEC_TIMEOUT (R293, R294). -/
def symbolPair (s1 s2 : Byte) : Half := s2 ++ s1

/-! ## The event queue (10_state.md R61) -/

/-- A push finds the queue full. -/
def State.queueFull (s : State) : Bool := decide (s.queue.length = Config.qDepth)

/-- `queue_push(ev)`: appended at the tail, or dropped with QOVF and QDROP when the queue is full. Whether it was
dropped is `queueFull` before the push. -/
def State.queuePush (s : State) (ev : Word) : State :=
  if s.queueFull then
    { s with status := { s.status with qovf := true }, qdrop := toRegU (satu32 (s.qdrop.toNat + 1)) }
  else { s with queue := s.queue ++ [ev] }

/-! ## AUD (20_memory.md) -/

/-- The byte at an address as the list holds it; an address it does not name reads as `Config.audUnlisted` (log 4). -/
def Memory.get : Memory → Nat → Byte
  | [], _ => Config.audUnlisted
  | (a, b) :: rest, addr => if addr = a then b else Memory.get rest addr

/-- One byte stored, the canonical form kept: an entry that reads as unlisted bytes do is not listed. -/
def Memory.set : Memory → Nat → Byte → Memory
  | [], addr, v => if v = Config.audUnlisted then [] else [(addr, v)]
  | (a, b) :: rest, addr, v =>
    if addr < a then (if v = Config.audUnlisted then (a, b) :: rest else (addr, v) :: (a, b) :: rest)
    else if addr = a then (if v = Config.audUnlisted then rest else (addr, v) :: rest)
    else (a, b) :: Memory.set rest addr v

/-- The canonical form from a lower bound on: addresses strictly rising and inside AUD, no entry that reads as
unlisted bytes do. -/
def Memory.wfFrom : Nat → Memory → Bool
  | _, [] => true
  | lo, (a, b) :: rest =>
    decide (lo ≤ a ∧ a < Config.audBytes ∧ b ≠ Config.audUnlisted) && Memory.wfFrom (a + 1) rest

/-- The canonical form of AUD: equal contents are equal lists. -/
def Memory.wf (m : Memory) : Bool := Memory.wfFrom 0 m

/-- AUD holding the given bytes, later entries winning; entries outside AUD (R80) are no bytes of it. -/
def Memory.ofCells (cells : List Host.Cell) : Memory :=
  cells.foldl (fun m c => if c.1 < Config.audBytes then Memory.set m c.1 c.2 else m) []

/-- `MemRead(addr, 2)`, little-endian (R82); none outside AUD (R80). -/
def Memory.readHalf (m : Memory) (addr : Nat) : Option Half :=
  if addr + 1 < Config.audBytes then some (Memory.get m (addr + 1) ++ Memory.get m addr) else none

/-- `MemWrite(addr, 2, v)`, little-endian (R82); none outside AUD (R80). -/
def Memory.writeHalf (m : Memory) (addr : Nat) (v : Half) : Option Memory :=
  if addr + 1 < Config.audBytes then
    some (Memory.set (Memory.set m addr (v.extractLsb' 0 8)) (addr + 1) (v.extractLsb' 8 8))
  else none

/-! ## The register file (10_state.md R23) -/

/-- The register at an index; none for an unmapped index (R23). -/
def regAt (idx : Byte) : Option Reg :=
  match idx.toNat with
  | 0x00 => some .ID
  | 0x01 => some .STATUS
  | 0x02 => some .CTRL
  | 0x03 => some .QCOUNT
  | 0x04 => some .QDROP
  | 0x10 => some .BPF_B0
  | 0x11 => some .BPF_B1
  | 0x12 => some .BPF_B2
  | 0x13 => some .BPF_A1
  | 0x14 => some .BPF_A2
  | 0x15 => some .BPF_X1
  | 0x16 => some .BPF_X2
  | 0x17 => some .BPF_Y1
  | 0x18 => some .BPF_Y2
  | 0x20 => some .LPF_B0
  | 0x21 => some .LPF_B1
  | 0x22 => some .LPF_B2
  | 0x23 => some .LPF_A1
  | 0x24 => some .LPF_A2
  | 0x25 => some .LPF_X1
  | 0x26 => some .LPF_X2
  | 0x27 => some .LPF_Y1
  | 0x28 => some .LPF_Y2
  | 0x30 => some .NORM_DECAY
  | 0x31 => some .NORM_EPS
  | 0x32 => some .SMAX
  | 0x33 => some .SMIN
  | 0x40 => some .TRK_DECAY_STEP
  | 0x41 => some .TRK_MIN_RANGE
  | 0x42 => some .TRK_MIN
  | 0x43 => some .TRK_MAX
  | 0x44 => some .EDGE_COUNT
  | 0x50 => some .HIST_MIN_VAL
  | 0x51 => some .HIST_MAX_VAL
  | 0x52 => some .HIST_NBINS
  | 0x53 => some .HIST_SPREAD
  | 0x54 => some .HIST_DECAY
  | 0x55 => some .T_CUR
  | _ => none

/-- The register is RO: a WRREG to it fails with BAD_REG (R23; 40_control_commands.md R132). -/
def Reg.readOnly : Reg → Bool
  | .ID | .QCOUNT | .QDROP => true
  | .BPF_X1 | .BPF_X2 | .BPF_Y1 | .BPF_Y2 | .LPF_X1 | .LPF_X2 | .LPF_Y1 | .LPF_Y2 => true
  | .SMAX | .SMIN | .TRK_MIN | .TRK_MAX | .EDGE_COUNT | .T_CUR => true
  | .STATUS | .CTRL | .BPF_B0 | .BPF_B1 | .BPF_B2 | .BPF_A1 | .BPF_A2 => false
  | .LPF_B0 | .LPF_B1 | .LPF_B2 | .LPF_A1 | .LPF_A2 | .NORM_DECAY | .NORM_EPS => false
  | .TRK_DECAY_STEP | .TRK_MIN_RANGE => false
  | .HIST_MIN_VAL | .HIST_MAX_VAL | .HIST_NBINS | .HIST_SPREAD | .HIST_DECAY => false

/-- A value WRREG refuses with INVALID_ARG: reserved CTRL bits, NORM_DECAY above 65535, NORM_EPS zero or above 65536
(40_control_commands.md R132). Every other writable register takes every value. -/
def Reg.rejects (r : Reg) (v : Word) : Bool :=
  match r with
  | .CTRL => decide (v.extractLsb' 2 30 ≠ 0#30)
  | .NORM_DECAY => decide (v.toNat > 65535)
  | .NORM_EPS => decide (v.toNat = 0 ∨ v.toNat > 65536)
  | _ => false

/-- The value RDREG returns (R131): STATUS assembled from its bits, QCOUNT the queue length, s32 registers as their
32-bit field. -/
def State.readReg (s : State) : Reg → Word
  | .ID => Config.idValue
  | .STATUS => s.status.toWord
  | .CTRL => s.ctrl
  | .QCOUNT => toRegU s.queue.length
  | .QDROP => s.qdrop
  | .BPF_B0 => s.bpf.b0
  | .BPF_B1 => s.bpf.b1
  | .BPF_B2 => s.bpf.b2
  | .BPF_A1 => s.bpf.a1
  | .BPF_A2 => s.bpf.a2
  | .BPF_X1 => s.bpf.x1
  | .BPF_X2 => s.bpf.x2
  | .BPF_Y1 => s.bpf.y1
  | .BPF_Y2 => s.bpf.y2
  | .LPF_B0 => s.lpf.b0
  | .LPF_B1 => s.lpf.b1
  | .LPF_B2 => s.lpf.b2
  | .LPF_A1 => s.lpf.a1
  | .LPF_A2 => s.lpf.a2
  | .LPF_X1 => s.lpf.x1
  | .LPF_X2 => s.lpf.x2
  | .LPF_Y1 => s.lpf.y1
  | .LPF_Y2 => s.lpf.y2
  | .NORM_DECAY => s.norm.decay
  | .NORM_EPS => s.norm.eps
  | .SMAX => s.norm.smax
  | .SMIN => s.norm.smin
  | .TRK_DECAY_STEP => s.trk.decayStep
  | .TRK_MIN_RANGE => s.trk.minRange
  | .TRK_MIN => s.trk.tmin
  | .TRK_MAX => s.trk.tmax
  | .EDGE_COUNT => s.edgeCount
  | .HIST_MIN_VAL => s.hist.minVal
  | .HIST_MAX_VAL => s.hist.maxVal
  | .HIST_NBINS => s.hist.nbins
  | .HIST_SPREAD => s.hist.spread
  | .HIST_DECAY => s.hist.decay
  | .T_CUR => s.hist.tCur

/-- `STATUS.TRK_READY <- 0`, on every successful write of a guarded tracker register (R24). -/
def State.dropTrkReady (s : State) : State := { s with status := { s.status with trkReady := false } }

/-- `STATUS.HIST_READY <- 0`, on every successful write of a guarded histogram register (R24). -/
def State.dropHistReady (s : State) : State := { s with status := { s.status with histReady := false } }

/-- A WRREG that passed its checks (R132): the register takes the value, a guarded one drops its READY bit, STATUS is
write-one-to-clear; read-only registers are never reached. -/
def State.writeReg (s : State) (r : Reg) (v : Word) : State :=
  match r with
  | .STATUS => { s with status := s.status.clearSticky v }
  | .CTRL => { s with ctrl := v }
  | .BPF_B0 => { s with bpf := { s.bpf with b0 := v } }
  | .BPF_B1 => { s with bpf := { s.bpf with b1 := v } }
  | .BPF_B2 => { s with bpf := { s.bpf with b2 := v } }
  | .BPF_A1 => { s with bpf := { s.bpf with a1 := v } }
  | .BPF_A2 => { s with bpf := { s.bpf with a2 := v } }
  | .LPF_B0 => { s with lpf := { s.lpf with b0 := v } }
  | .LPF_B1 => { s with lpf := { s.lpf with b1 := v } }
  | .LPF_B2 => { s with lpf := { s.lpf with b2 := v } }
  | .LPF_A1 => { s with lpf := { s.lpf with a1 := v } }
  | .LPF_A2 => { s with lpf := { s.lpf with a2 := v } }
  | .NORM_DECAY => { s with norm := { s.norm with decay := v } }
  | .NORM_EPS => { s with norm := { s.norm with eps := v } }
  | .TRK_DECAY_STEP => { s with trk := { s.trk with decayStep := v } }.dropTrkReady
  | .TRK_MIN_RANGE => { s with trk := { s.trk with minRange := v } }.dropTrkReady
  | .HIST_MIN_VAL => { s with hist := { s.hist with minVal := v } }.dropHistReady
  | .HIST_MAX_VAL => { s with hist := { s.hist with maxVal := v } }.dropHistReady
  | .HIST_NBINS => { s with hist := { s.hist with nbins := v } }.dropHistReady
  | .HIST_SPREAD => { s with hist := { s.hist with spread := v } }.dropHistReady
  | .HIST_DECAY => { s with hist := { s.hist with decay := v } }.dropHistReady
  | .ID | .QCOUNT | .QDROP | .BPF_X1 | .BPF_X2 | .BPF_Y1 | .BPF_Y2 | .LPF_X1 | .LPF_X2 | .LPF_Y1 | .LPF_Y2
  | .SMAX | .SMIN | .TRK_MIN | .TRK_MAX | .EDGE_COUNT | .T_CUR => s

end Sys2Proof.Machine
end

