-- ==== Sys2Proof/Machine/Track.lean ====
section
/-! DEFINITION. The adaptive threshold tracker: TRK_INIT, TRK_UPDATE, TRK_MID, TRK_POS, TRK_NEG
(43_threshold_tracker.md). -/

namespace Sys2Proof.Machine

/-- `trk_range()` (R193). -/
def Tracker.range (t : Tracker) : Int := t.tmax.toInt - t.tmin.toInt

/-- `trk_mid()` (R193). -/
def Tracker.mid (t : Tracker) : Int := t.tmin.toInt + asr t.range 1

/-- `trk_pos()`: the midpoint itself (R193). -/
def Tracker.pos (t : Tracker) : Int := t.mid

/-- `trk_neg()` (R193). -/
def Tracker.neg (t : Tracker) : Int := t.tmin.toInt + asr t.range 2

/-- Step 1 of `trk_update`: widen to include the sample (R194). -/
def Tracker.widen (t : Tracker) (x : Int) : Tracker :=
  { t with
    tmin := if x < t.tmin.toInt then toReg x else t.tmin
    tmax := if x > t.tmax.toInt then toReg x else t.tmax }

/-- Step 2 of `trk_update`: the side opposite the sample moves in by TRK_DECAY_STEP, unless the range is narrow (R194). -/
def Tracker.shrink (t : Tracker) (x : Int) : Tracker :=
  if t.range ≥ t.minRange.toNat then
    if x > t.mid then { t with tmin := toReg (t.tmin.toInt + t.decayStep.toNat) }
    else if x < t.mid then { t with tmax := toReg (t.tmax.toInt - t.decayStep.toNat) }
    else t
  else t

/-- The range is crossed (R194 step 3). -/
def Tracker.crossed (t : Tracker) : Bool := decide (t.tmin.toInt > t.tmax.toInt)

/-- `trk_correct()` when the range is crossed: the two registers are swapped (R195). -/
def Tracker.restore (t : Tracker) : Tracker := if t.crossed then { t with tmin := t.tmax, tmax := t.tmin } else t

/-- `trk_update(s)` (R194). -/
def Tracker.update (t : Tracker) (x : Int) : Tracker := ((t.widen x).shrink x).restore

/-- `trk_update(s)` has to restore the range (R195). -/
def Tracker.corrects (t : Tracker) (x : Int) : Bool := ((t.widen x).shrink x).crossed

/-- The configuration passes TRK_INIT's check (R191), compared as integers. -/
def Tracker.configLegal (t : Tracker) : Bool :=
  decide (t.decayStep.toNat ≠ 0 ∧ t.minRange.toNat > 2 * t.decayStep.toNat)

/-- `trk_update(s)` on the state: TRK_MIN, TRK_MAX and CORR (R194, R195). -/
def State.trkUpdate (s : State) (x : Int) : State :=
  { s with trk := s.trk.update x, status := s.status.recordCorrection (s.trk.corrects x) }

/-- TRK_INIT (R191): the tiny range -1 .. +1, and the edge detector restarts. -/
def execTrkInit (s : State) : Host.Outcome State Fault Refusal :=
  if s.trk.configLegal then
    .next ({ s with
      trk := { s.trk with tmin := toReg (-1), tmax := toReg 1 }
      edgeCount := 0#32
      status := { s.status with below := false, edgeValid := false, trkReady := true } }.respond .ok 0x20#8 0#16 0#32)
  else .next (s.raise .invalidArg 0x20#8)

/-- TRK_UPDATE (R196): answers the midpoint after the update. -/
def execTrkUpdate (sample : Word) (s : State) : Host.Outcome State Fault Refusal :=
  if !s.status.trkReady then .next (s.raise .notInit 0x21#8)
  else if !sampleLegal sample then .next (s.raise .invalidArg 0x21#8)
  else .next ((s.trkUpdate sample.toNat).respond .ok 0x21#8 0#16 (toReg (s.trk.update sample.toNat).mid))

/-- TRK_MID (R197). -/
def execTrkMid (s : State) : Host.Outcome State Fault Refusal :=
  if !s.status.trkReady then .next (s.raise .notInit 0x22#8)
  else .next (s.respond .ok 0x22#8 0#16 (toReg s.trk.mid))

/-- TRK_POS (R198). -/
def execTrkPos (s : State) : Host.Outcome State Fault Refusal :=
  if !s.status.trkReady then .next (s.raise .notInit 0x23#8)
  else .next (s.respond .ok 0x23#8 0#16 (toReg s.trk.pos))

/-- TRK_NEG (R199). -/
def execTrkNeg (s : State) : Host.Outcome State Fault Refusal :=
  if !s.status.trkReady then .next (s.raise .notInit 0x24#8)
  else .next (s.respond .ok 0x24#8 0#16 (toReg s.trk.neg))

end Sys2Proof.Machine
end

