-- ==== Sys2Proof/Machine/Edge.lean ====
section
/-! DEFINITION. The edge detector, a two-state hysteresis comparator, and EDG_UPDATE (44_edge_detector.md). -/

namespace Sys2Proof.Machine

/-- A Rising transition fires: not the first sample, state Below, and the sample clears `trk_pos()` (R222). -/
def State.edgeRises (s : State) (x : Int) : Bool :=
  s.status.edgeValid && s.status.below && decide (x > s.trk.pos)

/-- A Falling transition fires: not the first sample, state Above, and the sample falls below `trk_neg()` (R222). -/
def State.edgeFalls (s : State) (x : Int) : Bool :=
  s.status.edgeValid && !s.status.below && decide (x < s.trk.neg)

/-- The event `edge_update(s)` returns, 0 for none; the two signs saturate at the bounds of s32 (R222, R223). -/
def State.edgeEvent (s : State) (x : Int) : Word :=
  if s.edgeRises x then toReg (min s.edgeCount.toNat 2147483647 : Nat)
  else if s.edgeFalls x then toReg (-(min s.edgeCount.toNat 2147483648 : Nat))
  else 0#32

/-- The state `edge_update(s)` leaves (R221, R222). -/
def State.edgeUpdate (s : State) (x : Int) : State :=
  if !s.status.edgeValid then
    { s with
      status := { s.status with below := decide (x ≤ Config.midInit), edgeValid := true }
      edgeCount := 1#32 }
  else if s.edgeRises x then { s with status := { s.status with below := false }, edgeCount := 1#32 }
  else if s.edgeFalls x then { s with status := { s.status with below := true }, edgeCount := 1#32 }
  else { s with edgeCount := toRegU (satu32 (s.edgeCount.toNat + 1)) }

/-- EDG_UPDATE (R224): the edge detector alone; the tracker is not updated and the event is not queued. -/
def execEdgUpdate (sample : Word) (s : State) : Host.Outcome State Fault Refusal :=
  if !s.status.trkReady then .next (s.raise .notInit 0x28#8)
  else if !sampleLegal sample then .next (s.raise .invalidArg 0x28#8)
  else .next ((s.edgeUpdate sample.toNat).respond .ok 0x28#8 0#16 (s.edgeEvent sample.toNat))

end Sys2Proof.Machine
end

