-- ==== Sys2Proof/Machine/Filter.lean ====
section
/-! DEFINITION. The biquad filter chain and envelope detector, and FLT_STEP (41_filter_chain.md). -/

namespace Sys2Proof.Machine

/-- The exact sum of the five products of one section (R151). -/
def Biquad.acc (f : Biquad) (x : Word) : Int :=
  f.b0.toInt * x.toInt + f.b1.toInt * f.x1.toInt + f.b2.toInt * f.x2.toInt - f.a1.toInt * f.y1.toInt
    - f.a2.toInt * f.y2.toInt

/-- The section's output: floored to Q23.8, then saturated (R151). -/
def Biquad.out (f : Biquad) (x : Word) : Word := toReg (sat32 (asr (f.acc x) Config.cfrac))

/-- The output was clipped (R151, R155). -/
def Biquad.clips (f : Biquad) (x : Word) : Bool := sat32Clips (asr (f.acc x) Config.cfrac)

/-- The delay line after the sample; the saturated output is what is fed back (R151). -/
def Biquad.advance (f : Biquad) (x : Word) : Biquad :=
  { f with x1 := x, x2 := f.x1, y1 := f.out x, y2 := f.y1 }

/-- The full-wave rectifier (R152). -/
def rectify (y : Word) : Word := toReg (sat32 |y.toInt|)

/-- The rectifier clips: only for -2^31 (R152). -/
def rectifyClips (y : Word) : Bool := sat32Clips |y.toInt|

/-- The PCM sample in Q23.8, exact (R150). -/
def pcmWord (pcm : Half) : Word := toReg (pcm.toInt * Config.pcmScale)

/-- The bandpass section's output for a sample (R150). -/
def State.bandOut (s : State) (pcm : Half) : Word := s.bpf.out (pcmWord pcm)

/-- The envelope value `flt_step` returns (R150). -/
def State.envelope (s : State) (pcm : Half) : Word := s.lpf.out (rectify (s.bandOut pcm))

/-- One of the three `sat32` of the chain clips (R151, R152). -/
def State.chainClips (s : State) (pcm : Half) : Bool :=
  s.bpf.clips (pcmWord pcm) || rectifyClips (s.bandOut pcm) || s.lpf.clips (rectify (s.bandOut pcm))

/-- The state `flt_step` leaves: both delay lines, and FSAT (R150). -/
def State.fltStep (s : State) (pcm : Half) : State :=
  { s with
    bpf := s.bpf.advance (pcmWord pcm)
    lpf := s.lpf.advance (rectify (s.bandOut pcm))
    status := s.status.recordClip (s.chainClips pcm) }

/-- FLT_STEP (R153). -/
def execFltStep (pcm : Half) (s : State) : Host.Outcome State Fault Refusal :=
  .next ((s.fltStep pcm).respond .ok 0x10#8 0#16 (s.envelope pcm))

end Sys2Proof.Machine
end

