-- ==== Sys2Proof/Machine/Normalize.lean ====
section
/-! DEFINITION. The dynamic range normalizer and NRM_STEP (42_normalizer.md). -/

namespace Sys2Proof.Machine

/-- `SMAX - ((abs(SMAX) * NORM_DECAY) >> 16)`, before `sat32` (R171 step 1). -/
def Normalizer.decayedMax (n : Normalizer) : Int := n.smax.toInt - asr (|n.smax.toInt| * n.decay.toNat) 16

/-- `SMIN + ((abs(SMIN) * NORM_DECAY) >> 16)`, before `sat32` (R171 step 1). -/
def Normalizer.decayedMin (n : Normalizer) : Int := n.smin.toInt + asr (|n.smin.toInt| * n.decay.toNat) 16

/-- A `sat32` of step 1 clips (R171). -/
def Normalizer.clips (n : Normalizer) : Bool := sat32Clips n.decayedMax || sat32Clips n.decayedMin

/-- `smax` widened to the block's largest value (R171 step 2). -/
def Normalizer.widenedMax (n : Normalizer) (es : List Word) : Int :=
  es.foldl (fun m e => max m e.toInt) (sat32 n.decayedMax)

/-- `smin` widened to the block's smallest value (R171 step 2). -/
def Normalizer.widenedMin (n : Normalizer) (es : List Word) : Int :=
  es.foldl (fun m e => min m e.toInt) (sat32 n.decayedMin)

/-- `norm_update(E)` (R171), its step 3 last. -/
def Normalizer.update (n : Normalizer) (es : List Word) : Normalizer :=
  if n.widenedMin es ≥ n.widenedMax es then
    if n.widenedMax es - n.eps.toNat < -2147483648 then
      { n with smax := toReg (-2147483648 + n.eps.toNat), smin := toReg (-2147483648) }
    else
      { n with smax := toReg (n.widenedMax es), smin := toReg (n.widenedMax es - n.eps.toNat) }
  else
    { n with smax := toReg (n.widenedMax es), smin := toReg (n.widenedMin es) }

/-- The quotient of `norm_rescale` before its clamps (R172). -/
def Normalizer.quotient (n : Normalizer) (e : Word) : Int :=
  (e.toInt - n.smin.toInt) * 2 ^ Config.normBits / (n.smax.toInt - n.smin.toInt)

/-- `norm_rescale(e)` (R172). -/
def Normalizer.rescale (n : Normalizer) (e : Word) : Word :=
  if n.quotient e > Config.normCeil then toReg Config.normCeil
  else if n.quotient e < 0 then 0#32
  else toReg (n.quotient e)

/-- `norm_update(E)` on the state: SMAX, SMIN and FSAT (R171). -/
def State.normUpdate (s : State) (es : List Word) : State :=
  { s with norm := s.norm.update es, status := s.status.recordClip s.norm.clips }

/-- NRM_STEP (R173): the normalizer alone on a block of one. -/
def execNrmStep (e : Word) (s : State) : Host.Outcome State Fault Refusal :=
  .next ((s.normUpdate [e]).respond .ok 0x18#8 0#16 ((s.norm.update [e]).rescale e))

end Sys2Proof.Machine
end

