-- ==== Sys2Proof/Machine/Block.lean ====
section
/-! DEFINITION. The fused per-sample step, the per-buffer operation and the queue's input side: NSTEP, PROC_BLOCK,
EVT_SUBMIT (45_block_and_queue.md). -/

namespace Sys2Proof.Machine

/-- The event of the fused step: the tracker is updated first (R240, R241). -/
def State.nstepEvent (s : State) (x : Int) : Word := (s.trkUpdate x).edgeEvent x

/-- The event of the fused step is dropped (R241). -/
def State.nstepDrops (s : State) (x : Int) : Bool := decide (s.nstepEvent x ≠ 0#32) && s.queueFull

/-- The state `nstep_core(s)` leaves; a zero event is never pushed (R241). -/
def State.nstepCore (s : State) (x : Int) : State :=
  if s.nstepEvent x ≠ 0#32 then ((s.trkUpdate x).edgeUpdate x).queuePush (s.nstepEvent x)
  else (s.trkUpdate x).edgeUpdate x

/-- NSTEP (R242): the event, and in `aux16` whether it was dropped. -/
def execNstep (sample : Word) (s : State) : Host.Outcome State Fault Refusal :=
  if !s.status.trkReady then .next (s.raise .notInit 0x30#8)
  else if !sampleLegal sample then .next (s.raise .invalidArg 0x30#8)
  else
    .next ((s.nstepCore sample.toNat).respond .ok 0x30#8 (if s.nstepDrops sample.toNat then 1#16 else 0#16)
      (s.nstepEvent sample.toNat))

/-- CTRL.CHSEL: the right channel is read (10_state.md R35). -/
def State.chsel (s : State) : Bool := s.ctrl.getLsbD 0

/-- CTRL.DBGOUT: the debug copy is written (10_state.md R35). -/
def State.dbgout (s : State) : Bool := s.ctrl.getLsbD 1

/-- The halfwords of `count` frames from `addr` on, frames ascending (20_memory.md R81, R88); none outside AUD. -/
def readFrames (m : Memory) : Nat → Nat → Option (List Half)
  | _, 0 => some []
  | addr, k + 1 =>
    match Memory.readHalf m addr, readFrames m (addr + 4) k with
    | some h, some hs => some (h :: hs)
    | _, _ => none

/-- The debug copy from `addr` on: both halfwords of each frame, frames ascending (20_memory.md R88, R92). -/
def writeFrames : Memory → Nat → List Half → Option Memory
  | m, _, [] => some m
  | m, addr, d :: ds =>
    match Memory.writeHalf m addr d with
    | none => none
    | some m1 =>
      match Memory.writeHalf m1 (addr + 2) d with
      | none => none
      | some m2 => writeFrames m2 (addr + 4) ds

/-- Pass 1 of PROC_BLOCK on the state: every sample through the filter chain (R243). -/
def filterPass : List Half → State → State
  | [], s => s
  | pcm :: rest, s => filterPass rest (s.fltStep pcm)

/-- Pass 1 of PROC_BLOCK: the envelope values `E` (R243). -/
def envelopes : List Half → State → List Word
  | [], _ => []
  | pcm :: rest, s => s.envelope pcm :: envelopes rest (s.fltStep pcm)

/-- Pass 2 of PROC_BLOCK on the state: every normalized sample through the fused step (R243). -/
def comparePass : List Word → State → State
  | [], s => s
  | n :: rest, s => comparePass rest (s.nstepCore n.toNat)

/-- `nev`: the non-zero events of pass 2, queued or dropped (R243). -/
def countEvents : List Word → State → Nat
  | [], _ => 0
  | n :: rest, s =>
    (if s.nstepEvent n.toNat ≠ 0#32 then 1 else 0) + countEvents rest (s.nstepCore n.toNat)

/-- The debug copy of a normalized sample: `n >> 15` (20_memory.md R92). -/
def debugHalf (n : Word) : Half := BitVec.ofNat 16 (n.toNat / 2 ^ 15)

/-- A block of samples through both passes: the state, and the normalized samples (R243). -/
def State.normalized (s : State) (pcms : List Half) : List Word :=
  (envelopes pcms s).map ((s.norm.update (envelopes pcms s)).rescale)

/-- The state after pass 1 and `norm_update` (R243). -/
def State.beforeCompare (s : State) (pcms : List Half) : State :=
  (filterPass pcms s).normUpdate (envelopes pcms s)

/-- The block's work once its samples are read, without the debug copy (R243). -/
def State.runBlock (s : State) (pcms : List Half) : State :=
  comparePass (s.normalized pcms) (s.beforeCompare pcms)

/-- `nev` of a block (R243). -/
def State.blockEvents (s : State) (pcms : List Half) : Nat :=
  countEvents (s.normalized pcms) (s.beforeCompare pcms)

/-- The block's region is misaligned or not wholly inside AUD (R243; 20_memory.md R83), computed without wrap. -/
def blockAddrBad (count : Half) (base : Word) : Bool :=
  decide (base.toNat % 4 ≠ 0 ∨ base.toNat + 4 * count.toNat > Config.audBytes)

/-- The debug copy of a block, where DBGOUT asks for it (20_memory.md R92). -/
def State.debugCopy (s : State) (base : Word) (ns : List Word) : Option Memory :=
  if s.dbgout then writeFrames s.aud base.toNat (ns.map debugHalf) else some s.aud

/-- PROC_BLOCK (R243): its checks in the rule's order, an empty block a no-op, then all reads, then the work, then the
debug copy. -/
def execProcBlock (count : Half) (base : Word) (s : State) : Host.Outcome State Fault Refusal :=
  if !s.status.trkReady then .next (s.raise .notInit 0x31#8)
  else if count.toNat > Config.blockMax then .next (s.raise .invalidArg 0x31#8)
  else if blockAddrBad count base then .next (s.raise .addrErr 0x31#8)
  else if count = 0#16 then .next (s.respond .ok 0x31#8 0#16 0#32)
  else
    match readFrames s.aud (base.toNat + if s.chsel then 2 else 0) count.toNat with
    | none => .fault .audOutside
    | some pcms =>
      match s.debugCopy base (s.normalized pcms) with
      | none => .fault .audOutside
      | some m =>
        .next ({ s.runBlock pcms with aud := m }.respond .ok 0x31#8 (BitVec.ofNat 16 (s.blockEvents pcms))
          (toRegU (4 * count.toNat)))

/-- EVT_SUBMIT (R245): a full queue answers QFULL, which is no failure. -/
def execEvtSubmit (ev : Word) (s : State) : Host.Outcome State Fault Refusal :=
  if ev = 0#32 then .next (s.raise .invalidArg 0x32#8)
  else if s.queueFull then .next ((s.queuePush ev).respond .qfull 0x32#8 0#16 0#32)
  else .next ((s.queuePush ev).respond .ok 0x32#8 0#16 0#32)

end Sys2Proof.Machine
end

