-- ==== Sys2Proof/Machine/Control.lean ====
section
/-! DEFINITION. The control commands NOP, RDREG, WRREG, SRESET and RDBIN (40_control_commands.md). -/

namespace Sys2Proof.Machine

/-- NOP (R130). -/
def execNop (s : State) : Host.Outcome State Fault Refusal := .next (s.respond .ok 0x00#8 0#16 0#32)

/-- RDREG (R131): an unmapped index fails with BAD_REG; reading has no side effect. -/
def execRdreg (idx : Byte) (s : State) : Host.Outcome State Fault Refusal :=
  match regAt idx with
  | none => .next (s.raise .badReg 0x01#8)
  | some r => .next (s.respond .ok 0x01#8 0#16 (s.readReg r))

/-- WRREG (R132), its checks in the rule's order. -/
def execWrreg (idx : Byte) (v : Word) (s : State) : Host.Outcome State Fault Refusal :=
  match regAt idx with
  | none => .next (s.raise .badReg 0x02#8)
  | some r =>
    if r.readOnly then .next (s.raise .badReg 0x02#8)
    else if r.rejects v then .next (s.raise .invalidArg 0x02#8)
    else .next ((s.writeReg r v).respond .ok 0x02#8 0#16 0#32)

/-- SRESET (R133; 70_reset_and_hazards.md R342): the reset state, except that AUD keeps its contents; what the streams
have already carried, and what the host has yet to do, is not affected (log 3). -/
def execSreset (s : State) : Host.Outcome State Fault Refusal :=
  .next ({ State.afterReset s.aud with input := s.input, rsp := s.rsp, sym := s.sym, audOut := s.audOut }.respond
    .ok 0x03#8 0#16 0#32)

/-- `bin[i]`; every 8-bit index is a real cell (R134). -/
def Histogram.bin (h : Histogram) (i : Nat) : Word := h.bins.getD i 0#32

/-- RDBIN (R134): needs no READY bit and cannot fail. -/
def execRdbin (idx : Byte) (s : State) : Host.Outcome State Fault Refusal :=
  .next (s.respond .ok 0x04#8 0#16 (s.hist.bin idx.toNat))

end Sys2Proof.Machine
end

