-- ==== Sys2Proof/Machine/Histo.lean ====
section
/-! DEFINITION. The decaying histogram and the threshold derivation: HIST_INIT, HIST_ADD, HIST_DECAY, HIST_PEAKS,
HIST_THR (46_histogram.md). -/

namespace Sys2Proof.Machine

/-- The configuration passes HIST_INIT's check, computed without wrap (R261). -/
def Histogram.configLegal (h : Histogram) : Bool :=
  decide (1 ≤ h.nbins.toNat ∧ h.nbins.toNat ≤ Config.nbinsMax ∧ h.minVal.toNat < h.maxVal.toNat
    ∧ 1 ≤ h.decay.toNat ∧ h.decay.toNat ≤ 65536 ∧ 2 * h.spread.toNat + 2 ≤ h.nbins.toNat)

/-- One bin decayed: `(bin * alpha) >> 16` (R262). -/
def decayBin (alpha b : Word) : Word := toRegU (b.toNat * alpha.toNat / 2 ^ 16)

/-- `hist_decay()`: every used bin (R262). -/
def Histogram.decayAll (h : Histogram) : Histogram :=
  { h with bins := (h.bins.take h.nbins.toNat).map (decayBin h.decay) ++ h.bins.drop h.nbins.toNat }

/-- `hist_index(d)`: the bin that contains a duration; none outside the closed range (R263). -/
def Histogram.index (h : Histogram) (d : Nat) : Option Nat :=
  if d < h.minVal.toNat ∨ d > h.maxVal.toNat then none
  else
    some (min ((d - h.minVal.toNat) * h.nbins.toNat / (h.maxVal.toNat - h.minVal.toNat)) (h.nbins.toNat - 1))

/-- One counted sample in a bin (R266). -/
def Histogram.count (h : Histogram) (i : Nat) : Histogram :=
  { h with bins := h.bins.set i (toRegU (satu32 ((h.bin i).toNat + Config.binOne))) }

/-- `hist_add(d)`: decay always, then count where the duration is in range (R266). -/
def Histogram.add (h : Histogram) (d : Nat) : Histogram :=
  match h.index d with
  | none => h.decayAll
  | some i => h.decayAll.count i

/-- The smallest accepted index, from `i` on, whose cell is the largest among the accepted ones, with its value. -/
def firstMax (accept : Nat → Bool) : Nat → List Word → Option (Nat × Nat)
  | _, [] => none
  | i, b :: rest =>
    match firstMax accept (i + 1) rest with
    | none => if accept i then some (i, b.toNat) else none
    | some (j, v) => if accept i && decide (v ≤ b.toNat) then some (i, b.toNat) else some (j, v)

/-- `peak1`: the smallest index with a maximal bin (R264). -/
def Histogram.peak1 (h : Histogram) : Nat :=
  match firstMax (fun _ => true) 0 (h.bins.take h.nbins.toNat) with
  | some (i, _) => i
  | none => 0

/-- The bin lies outside the exclusion window around `p` (R264). -/
def Histogram.outside (h : Histogram) (p i : Nat) : Bool := decide (((i : Int) - (p : Int)).natAbs > h.spread.toNat)

/-- `peak2`: the smallest index with a maximal bin among those outside the window around `peak1` (R264). -/
def Histogram.peak2 (h : Histogram) : Nat :=
  match firstMax (h.outside h.peak1) 0 (h.bins.take h.nbins.toNat) with
  | some (i, _) => i
  | none => 0

/-- `min_index` (R264). -/
def Histogram.lowPeak (h : Histogram) : Nat := min h.peak1 h.peak2

/-- `max_index` (R264). -/
def Histogram.highPeak (h : Histogram) : Nat := max h.peak1 h.peak2

/-- `hist_threshold()` (R265). -/
def Histogram.threshold (h : Histogram) : Word :=
  toReg ((h.minVal.toNat : Int)
    + ((h.lowPeak + h.highPeak + 1 : Nat) : Int) * ((h.maxVal.toNat : Int) - h.minVal.toNat) / (2 * h.nbins.toNat))

/-- The empty histogram of HIST_INIT: all 256 cells 0 (R261). -/
def Histogram.cleared (h : Histogram) : Histogram := { h with bins := List.replicate Config.nbinsMax 0#32 }

/-- HIST_INIT (R261). -/
def execHistInit (s : State) : Host.Outcome State Fault Refusal :=
  if s.hist.configLegal then
    .next ({ s with
      hist := { s.hist.cleared with tCur := s.hist.cleared.threshold }
      status := { s.status with histReady := true, idleFlushed := true } }.respond .ok 0x40#8 0#16
        s.hist.cleared.threshold)
  else .next (s.raise .invalidArg 0x40#8)

/-- HIST_ADD (R266): the counted bin and 1, or 0 and 0 for a duration out of range. -/
def execHistAdd (d : Word) (s : State) : Host.Outcome State Fault Refusal :=
  if !s.status.histReady then .next (s.raise .notInit 0x41#8)
  else
    .next ({ s with hist := s.hist.add d.toNat }.respond .ok 0x41#8
      (BitVec.ofNat 16 ((s.hist.index d.toNat).getD 0)) (if (s.hist.index d.toNat).isSome then 1#32 else 0#32))

/-- HIST_DECAY (R267). -/
def execHistDecay (s : State) : Host.Outcome State Fault Refusal :=
  if !s.status.histReady then .next (s.raise .notInit 0x42#8)
  else .next ({ s with hist := s.hist.decayAll }.respond .ok 0x42#8 0#16 0#32)

/-- HIST_PEAKS (R268): `aux16` the taller peak, `result32` the pair ordered by index. -/
def execHistPeaks (s : State) : Host.Outcome State Fault Refusal :=
  if !s.status.histReady then .next (s.raise .notInit 0x43#8)
  else
    .next (s.respond .ok 0x43#8 (BitVec.ofNat 16 s.hist.peak1)
      (toRegU (s.hist.highPeak * 65536 + s.hist.lowPeak)))

/-- HIST_THR (R269): does not write T_CUR. -/
def execHistThr (s : State) : Host.Outcome State Fault Refusal :=
  if !s.status.histReady then .next (s.raise .notInit 0x44#8)
  else .next (s.respond .ok 0x44#8 0#16 s.hist.threshold)

end Sys2Proof.Machine
end

