-- ==== Sys2Proof/Machine/Classify.lean ====
section
/-! DEFINITION. The dit/dah and gap classifier on the queue's output side: DEC_STEP, DEC_TIMEOUT (47_classifier.md). -/

namespace Sys2Proof.Machine

/-- `hist_add(d)` then `T_CUR <- hist_threshold()`: what a falling event does to the histogram (R293). -/
def Histogram.learn (h : Histogram) (d : Nat) : Histogram := { h.add d with tCur := (h.add d).threshold }

/-- The event taken off the queue, and the idle period over (R293). -/
def State.takeEvent (s : State) (rest : List Word) : State :=
  { s with queue := rest, status := { s.status with idleFlushed := false } }

/-- A falling event: a tone of `d` samples is learned, then classified against the new threshold (R293). -/
def State.classifyTone (s : State) (d : Nat) (ev : Word) : State :=
  if d < (s.hist.learn d).tCur.toNat then
    ({ s with hist := s.hist.learn d }.emit .dit).respond .ok 0x50#8 (symbolPair Symbol.dit.code 0#8) ev
  else
    ({ s with hist := s.hist.learn d }.emit .dah).respond .ok 0x50#8 (symbolPair Symbol.dah.code 0#8) ev

/-- A rising event: a gap of `d` samples is compared with T_CUR and with the exact product 3 * T_CUR (R293). -/
def State.classifyGap (s : State) (d : Nat) (ev : Word) : State :=
  if d ≥ s.hist.tCur.toNat then
    if d ≥ Config.wordFactor * s.hist.tCur.toNat then
      ((s.emit .letter).emit .word).respond .ok 0x50#8 (symbolPair Symbol.letter.code Symbol.word.code) ev
    else (s.emit .letter).respond .ok 0x50#8 (symbolPair Symbol.letter.code 0#8) ev
  else s.respond .ok 0x50#8 0#16 ev

/-- DEC_STEP (R293): the oldest event; an empty queue answers EMPTY and changes nothing. -/
def execDecStep (s : State) : Host.Outcome State Fault Refusal :=
  if !s.status.histReady then .next (s.raise .notInit 0x50#8)
  else
    match s.queue with
    | [] => .next (s.respond .empty 0x50#8 0#16 0#32)
    | ev :: rest =>
      if ev.toInt < 0 then .next ((s.takeEvent rest).classifyTone ev.toInt.natAbs ev)
      else .next ((s.takeEvent rest).classifyGap ev.toNat ev)

/-- DEC_TIMEOUT (R294): the first timeout of an idle period flushes, the later ones decay; neither touches T_CUR. -/
def execDecTimeout (s : State) : Host.Outcome State Fault Refusal :=
  if !s.status.histReady then .next (s.raise .notInit 0x51#8)
  else if s.queue ≠ [] then .next (s.raise .notIdle 0x51#8)
  else if !s.status.idleFlushed then
    .next (({ s with status := { s.status with idleFlushed := true } }.emit .letter).emit .flush |>.respond .ok 0x51#8
      (symbolPair Symbol.letter.code Symbol.flush.code) 0#32)
  else .next ({ s with hist := s.hist.decayAll }.respond .ok 0x51#8 0#16 0#32)

end Sys2Proof.Machine
end

