-- ==== Sys2Proof/Machine/Dispatch.lean ====
section
/-! DEFINITION. One arm per command, each one direct call of its meaning. -/

namespace Sys2Proof.Machine

def exec (i : Instr) (s : State) : Host.Outcome State Fault Refusal :=
  match i with
  | .nop => Sys2Proof.Machine.execNop s
  | .rdreg idx => Sys2Proof.Machine.execRdreg idx s
  | .wrreg idx value => Sys2Proof.Machine.execWrreg idx value s
  | .sreset => Sys2Proof.Machine.execSreset s
  | .rdbin idx => Sys2Proof.Machine.execRdbin idx s
  | .fltStep pcm => Sys2Proof.Machine.execFltStep pcm s
  | .nrmStep e => Sys2Proof.Machine.execNrmStep e s
  | .trkInit => Sys2Proof.Machine.execTrkInit s
  | .trkUpdate sample => Sys2Proof.Machine.execTrkUpdate sample s
  | .trkMid => Sys2Proof.Machine.execTrkMid s
  | .trkPos => Sys2Proof.Machine.execTrkPos s
  | .trkNeg => Sys2Proof.Machine.execTrkNeg s
  | .edgUpdate sample => Sys2Proof.Machine.execEdgUpdate sample s
  | .nstep sample => Sys2Proof.Machine.execNstep sample s
  | .procBlock count base => Sys2Proof.Machine.execProcBlock count base s
  | .evtSubmit ev => Sys2Proof.Machine.execEvtSubmit ev s
  | .histInit => Sys2Proof.Machine.execHistInit s
  | .histAdd duration => Sys2Proof.Machine.execHistAdd duration s
  | .histDecay => Sys2Proof.Machine.execHistDecay s
  | .histPeaks => Sys2Proof.Machine.execHistPeaks s
  | .histThr => Sys2Proof.Machine.execHistThr s
  | .decStep => Sys2Proof.Machine.execDecStep s
  | .decTimeout => Sys2Proof.Machine.execDecTimeout s

end Sys2Proof.Machine
end

