-- ==== Sys2Proof/Machine/Port.lean ====
section
/-! DEFINITION. The host's side of the ports: its accesses to AUD and the hardware reset (10_state.md R22;
20_memory.md R89; 70_reset_and_hazards.md R340). Commands are run by Step. -/

namespace Sys2Proof.Machine

/-- The host writes one halfword of AUD (log 6). -/
def hostWrite (half : BitVec 11) (v : Half) (s : State) : State :=
  { s with
    aud := Memory.set (Memory.set s.aud (2 * half.toNat) (v.extractLsb' 0 8)) (2 * half.toNat + 1)
      (v.extractLsb' 8 8) }

/-- The host reads one halfword of AUD: the latest value written, no side effect on the block (20_memory.md R84). -/
def hostRead (half : BitVec 11) (s : State) : State :=
  { s with audOut := s.audOut ++ [Memory.get s.aud (2 * half.toNat + 1) ++ Memory.get s.aud (2 * half.toNat)] }

/-- Hardware reset (R340, R341): the reset state with the AUD contents found afterwards; it does not answer, and what
the streams have carried, and what the host has yet to do, stays (R342, log 5). -/
def hardReset (contents : List Host.Cell) (s : State) : State :=
  { State.afterReset (Memory.ofCells contents) with input := s.input, rsp := s.rsp, sym := s.sym, audOut := s.audOut }

/-- A command word put before the host's other moves (log 1). -/
def State.withCommand (s : State) (w : CmdWord) : State := { s with input := .command w :: s.input }

end Sys2Proof.Machine
end

