-- ==== Sys2Proof/Machine/Step.lean ====
section
/-! DEFINITION. One step: the next host move, in the order the host makes them (10_state.md R20, R21; log 1). -/

namespace Sys2Proof.Machine

/-- One command word: a legal one runs its command, an illegal one raises ILLEGAL_CMD (30_encoding.md R108). -/
def runWord (w : CmdWord) (s : State) : Host.Outcome State Fault Refusal :=
  match decode w with
  | some i => exec i s
  | none => .next (raiseIllegal w s)

/-- One host move. -/
def runMove (m : HostMove) (s : State) : Host.Outcome State Fault Refusal :=
  match m with
  | .command w => runWord w s
  | .audWrite half v => .next (hostWrite half v s)
  | .audRead half => .next (hostRead half s)
  | .hardReset contents => .next (hardReset contents s)

/-- One step: the oldest host move is taken off the input and done. With no move left the block holds its state and
does nothing (60_exceptions.md R330; log 2). -/
def step (s : State) : Host.Outcome State Fault Refusal :=
  match s.input with
  | [] => .next s
  | m :: rest => runMove m { s with input := rest }

/-- The state with the given command word as the host's next move: the next step runs it (log 1, log 12). -/
def State.withFetchWord (s : State) (nbits w : Nat) : State := s.withCommand (tableWord nbits w)

end Sys2Proof.Machine
end

