-- ==== Sys2Proof/Safety.lean ====
section
/-! DEFINITION. What counts as a safe run, and the terms claims use: the invariants of 10_state.md R71 (with the
sharper forms of 42_normalizer.md R178 and 43_threshold_tracker.md R200), the peaks of 46_histogram.md R264, and the
running of several commands. -/

namespace Sys2Proof.Machine

/-- Every number of steps answers a next state: no fault, no refusal (60_exceptions.md R314). -/
def State.Safe (s : State) : Prop := ∀ k, ∃ t, Host.Core.run Sys2Proof.core k s = .next t

/-- R71 item 1: at most QDEPTH entries, none of them 0. -/
abbrev State.QueueInv (s : State) : Prop := s.queue.length ≤ Config.qDepth ∧ ∀ e ∈ s.queue, e ≠ 0#32

/-- The tracker's configuration is legal and its range is sound (R71 item 2; R200). -/
abbrev Tracker.Sound (t : Tracker) : Prop :=
  t.decayStep.toNat ≠ 0 ∧ t.minRange.toNat > 2 * t.decayStep.toNat ∧ -1 ≤ t.tmin.toInt ∧ t.tmin.toInt < t.tmax.toInt

/-- R71 item 2. -/
abbrev State.TrackerInv (s : State) : Prop := s.status.trkReady = true → s.trk.Sound

/-- R71 item 3. -/
abbrev State.EdgeInv (s : State) : Prop :=
  (s.status.edgeValid = true → s.edgeCount ≠ 0#32)
    ∧ (s.status.edgeValid = false → s.edgeCount = 0#32 ∧ s.status.below = false)

/-- The histogram's configuration passes HIST_INIT's check (46_histogram.md R261), and there are 256 cells (R60). -/
abbrev Histogram.Sound (h : Histogram) : Prop :=
  h.bins.length = 256 ∧ 1 ≤ h.nbins.toNat ∧ h.nbins.toNat ≤ 256 ∧ h.minVal.toNat < h.maxVal.toNat
    ∧ 1 ≤ h.decay.toNat ∧ h.decay.toNat ≤ 65536 ∧ 2 * h.spread.toNat + 2 ≤ h.nbins.toNat

/-- R71 item 4: with HIST_READY the configuration is legal and every cell from HIST_NBINS on is 0. -/
abbrev State.HistInv (s : State) : Prop :=
  s.hist.bins.length = 256
    ∧ (s.status.histReady = true → s.hist.Sound ∧ ∀ b ∈ s.hist.bins.drop s.hist.nbins.toNat, b = 0#32)

/-- R71 item 5. -/
abbrev State.ConfigInv (s : State) : Prop :=
  1 ≤ s.norm.eps.toNat ∧ s.norm.eps.toNat ≤ 65536 ∧ s.norm.decay.toNat ≤ 65535 ∧ s.ctrl.extractLsb' 2 30 = 0#30

/-- R71 item 6 and 42_normalizer.md R178. -/
abbrev State.NormInv (s : State) : Prop :=
  (s.norm.smin.toInt < s.norm.smax.toInt ∨ s.norm.smin = 0#32 ∧ s.norm.smax = 0#32)
    ∧ s.norm.smin.toInt ≤ 0 ∧ 0 ≤ s.norm.smax.toInt

/-- The invariants of R71 together, and the canonical form of the model's AUD. -/
abbrev State.Inv (s : State) : Prop :=
  s.QueueInv ∧ s.TrackerInv ∧ s.EdgeInv ∧ s.HistInv ∧ s.ConfigInv ∧ s.NormInv ∧ s.aud.wf = true

/-- `p1` is `peak1` and `p2` is `peak2` of R264: smallest indices, the one with a maximal bin, the other with a maximal
bin among those more than HIST_SPREAD away from the first. -/
abbrev Histogram.IsPeaks (h : Histogram) (p1 p2 : Nat) : Prop :=
  p1 < h.nbins.toNat ∧ p2 < h.nbins.toNat
    ∧ (∀ i, i < h.nbins.toNat → (h.bin i).toNat ≤ (h.bin p1).toNat)
    ∧ (∀ i, i < p1 → (h.bin i).toNat < (h.bin p1).toNat)
    ∧ h.spread.toNat < ((p2 : Int) - (p1 : Int)).natAbs
    ∧ (∀ i, i < h.nbins.toNat → h.spread.toNat < ((i : Int) - (p1 : Int)).natAbs →
        (h.bin i).toNat ≤ (h.bin p2).toNat)
    ∧ (∀ i, i < p2 → h.spread.toNat < ((i : Int) - (p1 : Int)).natAbs → (h.bin i).toNat < (h.bin p2).toNat)

/-- The commands of a list run one after another; none where one of them does not answer a next state. -/
def execAll : List Instr → State → Option State
  | [], s => some s
  | i :: rest, s =>
    match exec i s with
    | .next t => execAll rest t
    | .fault _ => none
    | .refused _ => none

/-- The `result32` fields of the responses `t` has answered since `s` (30_encoding.md R107). -/
def resultsSince (s t : State) : List Word := (t.rsp.drop s.rsp.length).map rspResult

/-- The PCM samples of a block: the selected halfword of each frame, frames ascending (20_memory.md R81, R82, R88). -/
def blockSamples (s : State) (count : Half) (base : Word) : List Half :=
  (List.range count.toNat).map fun i =>
    Memory.get s.aud (base.toNat + 4 * i + (if s.ctrl.getLsbD 0 then 2 else 0) + 1)
      ++ Memory.get s.aud (base.toNat + 4 * i + (if s.ctrl.getLsbD 0 then 2 else 0))

end Sys2Proof.Machine
end

