-- ==== Sys2Proof/Certificates/Slice0/Obligations.lean ====
section
/-! DEFINITION. The statements for the provers. Each says in integers what a rule of spec/ says; a next state is given
whole, so that it is result, frame and completion at once. -/

open Sys2Proof Sys2Proof.Machine

/-! ## Encoding, decoding, stepping -/

/-- Each word has one meaning and each command one word: 30_encoding.md sections 1, 2 and 4. -/
def Obligations.DecodeIffEncode : Prop :=
  ∀ (w : CmdWord) (i : Instr), decode w = some i ↔ w = encode i

/-- 30_encoding.md R108: a word the opcode table accepts runs a command; every other word sets ILLCMD, answers
ILLEGAL_CMD with its own opcode echoed, and changes nothing else. -/
def Obligations.LegalWordRunsIllegalWordRaises : Prop :=
  ∀ (s : State) (w : CmdWord) (rest : List HostMove), s.input = .command w :: rest →
    (wellFormedWord w = true → ∃ i, decode w = some i ∧ step s = exec i { s with input := rest })
      ∧ (wellFormedWord w = false →
          step s = .next { s with
            input := rest
            status := { s.status with illcmd := true }
            rsp := s.rsp ++ [0x1F#8 ++ w.extractLsb' 56 8 ++ 0#16 ++ 0#32] })

/-- Words written out in 95_test_vectors.md section 2, section 3 and 30_encoding.md section 5 decode to their
commands; illegal words of section 3.1 decode to none. -/
def Obligations.SpecWordsDecode : Prop :=
  decode 0x0000000000000000#64 = some .nop
    ∧ decode 0x0241000000000064#64 = some (.wrreg 0x41#8 100#32)
    ∧ decode 0x04FF000000000000#64 = some (.rdbin 255#8)
    ∧ decode 0x100000000000FF9C#64 = some (.fltStep 0xFF9C#16)
    ∧ decode 0x1800000000006400#64 = some (.nrmStep 25600#32)
    ∧ decode 0x21000000000003E8#64 = some (.trkUpdate 1000#32)
    ∧ decode 0x2800000000000064#64 = some (.edgUpdate 100#32)
    ∧ decode 0x3100000800000100#64 = some (.procBlock 8#16 0x100#32)
    ∧ decode 0x32000000FFFFFF10#64 = some (.evtSubmit 0xFFFFFF10#32)
    ∧ decode 0x4100000000000078#64 = some (.histAdd 120#32)
    ∧ decode 0x5100000000000000#64 = some .decTimeout
    ∧ decode 0x1000000000010000#64 = none
    ∧ decode 0x3101000000000000#64 = none

/-- A step with a command word next runs the command the word decodes to, the word taken off the input (10_state.md
R20, R21). That the words to come are a list in the state is the model's choice (log 1). -/
def Obligations.StepRunsDecodedCommand : Prop :=
  ∀ (s : State) (w : CmdWord) (rest : List HostMove) (i : Instr), s.input = .command w :: rest →
    decode w = some i → step s = exec i { s with input := rest }

/-- The host's other moves and the idle step: a host write changes its two bytes of AUD and nothing else, a host read
returns them (20_memory.md R82, R84, R89), and with no move left the block holds its state (60_exceptions.md section 4, R330).
Host moves as a list and the host's 16-bit accesses at even addresses are the model's choice (log 1, log 2, log 6). -/
def Obligations.HostMovesAndIdle : Prop :=
  ∀ (s : State) (rest : List HostMove) (half : BitVec 11) (v : Half),
    (s.input = [] → step s = .next s)
      ∧ (s.input = .audWrite half v :: rest → s.aud.wf = true →
          ∃ m, step s = .next { s with input := rest, aud := m }
            ∧ ∀ a, Memory.get m a =
                if a = 2 * half.toNat then v.extractLsb' 0 8
                else if a = 2 * half.toNat + 1 then v.extractLsb' 8 8
                else Memory.get s.aud a)
      ∧ (s.input = .audRead half :: rest →
          step s = .next { s with
            input := rest
            audOut := s.audOut
              ++ [Memory.get s.aud (2 * half.toNat + 1) ++ Memory.get s.aud (2 * half.toNat)] })

/-- 30_encoding.md section 3: every command word, legal or not, is answered by exactly one response word, which echoes
the word's opcode, with zero results when the status is a failure. -/
def Obligations.EveryWordAnsweredOnce : Prop :=
  ∀ (s t : State) (w : CmdWord) (rest : List HostMove), s.input = .command w :: rest → step s = .next t →
    ∃ r : CmdWord, t.rsp = s.rsp ++ [r] ∧ r.extractLsb' 48 8 = w.extractLsb' 56 8
      ∧ (0x10 ≤ (r.extractLsb' 56 8).toNat → r.extractLsb' 32 16 = 0#16 ∧ r.extractLsb' 0 32 = 0#32)

/-- 60_exceptions.md R311 and R315: a failed command word, legal or not, has exactly two effects, its sticky flag
(ILLCMD for status 0x1F, ERR for every other failure) and its response, which carries the status, the echoed opcode
and zeros. -/
def Obligations.FailuresArePrecise : Prop :=
  ∀ (s t : State) (w r : CmdWord) (rest : List HostMove), s.input = .command w :: rest → step s = .next t →
    t.rsp = s.rsp ++ [r] → 0x10 ≤ (rspStatus r).toNat →
    t = { s with
        input := rest
        status :=
          if rspStatus r = 0x1F#8 then { s.status with illcmd := true } else { s.status with err := true }
        rsp := s.rsp ++ [rspStatus r ++ w.extractLsb' 56 8 ++ 0#16 ++ 0#32] }

/-- 60_exceptions.md section 1: the status codes and which commands answer each. -/
def Obligations.StatusCodesByCommand : Prop :=
  ∀ (i : Instr) (s t : State) (r : CmdWord), exec i s = .next t → t.rsp = s.rsp ++ [r] →
    (rspStatus r = 0x00#8)
      ∨ (rspStatus r = 0x01#8 ∧ i = .decStep)
      ∨ (rspStatus r = 0x02#8 ∧ ∃ ev, i = .evtSubmit ev)
      ∨ (rspStatus r = 0x10#8 ∧ (i = .trkInit ∨ i = .histInit ∨ (∃ idx v, i = .wrreg idx v) ∨ (∃ v, i = .trkUpdate v)
          ∨ (∃ v, i = .edgUpdate v) ∨ (∃ v, i = .nstep v) ∨ (∃ c b, i = .procBlock c b) ∨ ∃ v, i = .evtSubmit v))
      ∨ (rspStatus r = 0x11#8 ∧ i.needs ≠ .none)
      ∨ (rspStatus r = 0x12#8 ∧ ((∃ idx, i = .rdreg idx) ∨ ∃ idx v, i = .wrreg idx v))
      ∨ (rspStatus r = 0x13#8 ∧ ∃ c b, i = .procBlock c b)
      ∨ (rspStatus r = 0x14#8 ∧ i = .decTimeout)

/-- 60_exceptions.md R314: the block never halts, from any state, whatever the host does. -/
def Obligations.BlockNeverHalts : Prop := ∀ s : State, s.Safe

/-- A command whose READY bit is 0 fails with NOT_INIT (30_encoding.md section 2, column "needs", and section 4). -/
def Obligations.NotInitWithoutReady : Prop :=
  ∀ (i : Instr) (s : State),
    (i.needs = .trkReady ∧ s.status.trkReady = false) ∨ (i.needs = .histReady ∧ s.status.histReady = false) →
    exec i s = .next { s with
      status := { s.status with err := true }
      rsp := s.rsp ++ [responseWord .notInit i.opc 0#16 0#32] }

/-! ## Reset -/

/-- 70_reset_and_hazards.md R341: every register, bin, queue and stream after reset, whatever AUD holds. -/
def Obligations.ResetValues : Prop :=
  ∀ aud : Memory, let s := State.afterReset aud
    [Reg.ID, .STATUS, .CTRL, .QCOUNT, .QDROP].map s.readReg = [0x4D524431#32, 0x10#32, 2#32, 0#32, 0#32]
      ∧ s.status = { trkReady := false, histReady := false, edgeValid := false, below := false, idleFlushed := true,
                     qovf := false, corr := false, err := false, illcmd := false, fsat := false }
      ∧ [Reg.BPF_B0, .BPF_B1, .BPF_B2, .BPF_A1, .BPF_A2, .BPF_X1, .BPF_X2, .BPF_Y1, .BPF_Y2].map s.readReg
          = [0x40000000#32, 0#32, 0#32, 0#32, 0#32, 0#32, 0#32, 0#32, 0#32]
      ∧ [Reg.LPF_B0, .LPF_B1, .LPF_B2, .LPF_A1, .LPF_A2, .LPF_X1, .LPF_X2, .LPF_Y1, .LPF_Y2].map s.readReg
          = [0x40000000#32, 0#32, 0#32, 0#32, 0#32, 0#32, 0#32, 0#32, 0#32]
      ∧ [Reg.NORM_DECAY, .NORM_EPS, .SMAX, .SMIN].map s.readReg = [655#32, 26#32, 0#32, 0#32]
      ∧ [Reg.TRK_DECAY_STEP, .TRK_MIN_RANGE, .TRK_MIN, .TRK_MAX, .EDGE_COUNT].map s.readReg
          = [0#32, 0#32, 0#32, 0#32, 0#32]
      ∧ [Reg.HIST_MIN_VAL, .HIST_MAX_VAL, .HIST_NBINS, .HIST_SPREAD, .HIST_DECAY, .T_CUR].map s.readReg
          = [0#32, 0#32, 0#32, 0#32, 0#32, 0xFFFFFFFF#32]
      ∧ s.hist.bins = List.replicate 256 0#32 ∧ s.queue = [] ∧ s.aud = aud ∧ s.rsp = [] ∧ s.sym = []

/-- 70_reset_and_hazards.md R342: SRESET gives the reset state but for AUD, and answers; a hardware reset does not
answer; responses and symbols already transferred stay. What AUD holds after a hardware reset is open (R87, log 5).
That both resets also keep the host's moves still to come (log 1) and what the host has read (log 6) is the model's
choice, which R342 does not state. -/
def Obligations.SoftAndHardReset : Prop :=
  ∀ (s : State) (cells : List Host.Cell) (rest : List HostMove),
    exec .sreset s = .next { State.afterReset s.aud with
        input := s.input
        rsp := s.rsp ++ [0x0003000000000000#64]
        sym := s.sym
        audOut := s.audOut }
      ∧ (s.input = .hardReset cells :: rest →
          ∃ m, step s = .next { State.afterReset m with
            input := rest, rsp := s.rsp, sym := s.sym, audOut := s.audOut })

/-! ## Control commands -/

/-- NOP answers and does nothing else (40_control_commands.md section of R130). -/
def Obligations.NopOnlyAnswers : Prop :=
  ∀ s : State, exec .nop s = .next { s with rsp := s.rsp ++ [0x0000000000000000#64] }

/-- RDREG of every mapped index answers the register of 10_state.md section 2 and changes nothing else; every other
index answers BAD_REG. -/
def Obligations.RdregReadsEveryRegister : Prop :=
  ∀ (s : State) (idx : Byte),
    let table : List (Nat × Word) :=
      [(0x00, 0x4D524431#32), (0x01, s.status.toWord), (0x02, s.ctrl), (0x03, BitVec.ofNat 32 s.queue.length),
       (0x04, s.qdrop),
       (0x10, s.bpf.b0), (0x11, s.bpf.b1), (0x12, s.bpf.b2), (0x13, s.bpf.a1), (0x14, s.bpf.a2),
       (0x15, s.bpf.x1), (0x16, s.bpf.x2), (0x17, s.bpf.y1), (0x18, s.bpf.y2),
       (0x20, s.lpf.b0), (0x21, s.lpf.b1), (0x22, s.lpf.b2), (0x23, s.lpf.a1), (0x24, s.lpf.a2),
       (0x25, s.lpf.x1), (0x26, s.lpf.x2), (0x27, s.lpf.y1), (0x28, s.lpf.y2),
       (0x30, s.norm.decay), (0x31, s.norm.eps), (0x32, s.norm.smax), (0x33, s.norm.smin),
       (0x40, s.trk.decayStep), (0x41, s.trk.minRange), (0x42, s.trk.tmin), (0x43, s.trk.tmax), (0x44, s.edgeCount),
       (0x50, s.hist.minVal), (0x51, s.hist.maxVal), (0x52, s.hist.nbins), (0x53, s.hist.spread),
       (0x54, s.hist.decay), (0x55, s.hist.tCur)]
    (∀ v, (idx.toNat, v) ∈ table →
        exec (.rdreg idx) s = .next { s with rsp := s.rsp ++ [responseWord .ok 0x01#8 0#16 v] })
      ∧ ((∀ v, (idx.toNat, v) ∉ table) →
        exec (.rdreg idx) s = .next { s with
          status := { s.status with err := true }
          rsp := s.rsp ++ [responseWord .badReg 0x01#8 0#16 0#32] })

/-- 10_state.md R31: the layout of STATUS (bits 4 to 0 status, 12 to 8 sticky, all others 0, R32 and R33), its reset
value, and WRREG to it: sticky flags whose bit is 1 are cleared, nothing else changes, and it always succeeds. -/
def Obligations.StatusRegister : Prop :=
  (∀ (st : Status) (k : Nat), st.toWord.getLsbD k =
      if k = 0 then st.trkReady else if k = 1 then st.histReady else if k = 2 then st.edgeValid
      else if k = 3 then st.below else if k = 4 then st.idleFlushed else if k = 8 then st.qovf
      else if k = 9 then st.corr else if k = 10 then st.err else if k = 11 then st.illcmd
      else if k = 12 then st.fsat else false)
    ∧ (∀ aud, (State.afterReset aud).status.toWord = 0x00000010#32)
    ∧ ∀ (s : State) (v : Word), exec (.wrreg 0x01#8 v) s = .next { s with
        status := { s.status with
          qovf := s.status.qovf && !v.getLsbD 8
          corr := s.status.corr && !v.getLsbD 9
          err := s.status.err && !v.getLsbD 10
          illcmd := s.status.illcmd && !v.getLsbD 11
          fsat := s.status.fsat && !v.getLsbD 12 }
        rsp := s.rsp ++ [responseWord .ok 0x02#8 0#16 0#32] }

/-- WRREG of a filter coefficient, of a legal CTRL, NORM_DECAY or NORM_EPS value: the register takes the value and
nothing else changes (40_control_commands.md, WRREG; the coefficients by 10_state.md R40, R42). -/
def Obligations.WrregPlainRegisters : Prop :=
  ∀ (s : State) (v : Word), let ok := s.rsp ++ [responseWord .ok 0x02#8 0#16 0#32]
    exec (.wrreg 0x10#8 v) s = .next { s with bpf := { s.bpf with b0 := v }, rsp := ok }
      ∧ exec (.wrreg 0x11#8 v) s = .next { s with bpf := { s.bpf with b1 := v }, rsp := ok }
      ∧ exec (.wrreg 0x12#8 v) s = .next { s with bpf := { s.bpf with b2 := v }, rsp := ok }
      ∧ exec (.wrreg 0x13#8 v) s = .next { s with bpf := { s.bpf with a1 := v }, rsp := ok }
      ∧ exec (.wrreg 0x14#8 v) s = .next { s with bpf := { s.bpf with a2 := v }, rsp := ok }
      ∧ exec (.wrreg 0x20#8 v) s = .next { s with lpf := { s.lpf with b0 := v }, rsp := ok }
      ∧ exec (.wrreg 0x21#8 v) s = .next { s with lpf := { s.lpf with b1 := v }, rsp := ok }
      ∧ exec (.wrreg 0x22#8 v) s = .next { s with lpf := { s.lpf with b2 := v }, rsp := ok }
      ∧ exec (.wrreg 0x23#8 v) s = .next { s with lpf := { s.lpf with a1 := v }, rsp := ok }
      ∧ exec (.wrreg 0x24#8 v) s = .next { s with lpf := { s.lpf with a2 := v }, rsp := ok }
      ∧ (v.toNat < 4 → exec (.wrreg 0x02#8 v) s = .next { s with ctrl := v, rsp := ok })
      ∧ (v.toNat ≤ 65535 → exec (.wrreg 0x30#8 v) s = .next { s with norm := { s.norm with decay := v }, rsp := ok })
      ∧ (1 ≤ v.toNat → v.toNat ≤ 65536 →
          exec (.wrreg 0x31#8 v) s = .next { s with norm := { s.norm with eps := v }, rsp := ok })

/-- WRREG of a guarded register: it takes every value and drops its unit's READY bit, also when the value is the old
one (10_state.md section 2, guarded registers). -/
def Obligations.WrregGuardedDropsReady : Prop :=
  ∀ (s : State) (v : Word), let ok := s.rsp ++ [responseWord .ok 0x02#8 0#16 0#32]
    let trkDown := { s.status with trkReady := false }
    let histDown := { s.status with histReady := false }
    exec (.wrreg 0x40#8 v) s = .next { s with trk := { s.trk with decayStep := v }, status := trkDown, rsp := ok }
      ∧ exec (.wrreg 0x41#8 v) s = .next { s with trk := { s.trk with minRange := v }, status := trkDown, rsp := ok }
      ∧ exec (.wrreg 0x50#8 v) s = .next { s with hist := { s.hist with minVal := v }, status := histDown, rsp := ok }
      ∧ exec (.wrreg 0x51#8 v) s = .next { s with hist := { s.hist with maxVal := v }, status := histDown, rsp := ok }
      ∧ exec (.wrreg 0x52#8 v) s = .next { s with hist := { s.hist with nbins := v }, status := histDown, rsp := ok }
      ∧ exec (.wrreg 0x53#8 v) s = .next { s with hist := { s.hist with spread := v }, status := histDown, rsp := ok }
      ∧ exec (.wrreg 0x54#8 v) s = .next { s with hist := { s.hist with decay := v }, status := histDown, rsp := ok }

/-- WRREG's failures: an unmapped or read-only index answers BAD_REG, an illegal value of CTRL, NORM_DECAY or NORM_EPS
answers INVALID_ARG, and the registers keep their values (40_control_commands.md, WRREG). -/
def Obligations.WrregRejects : Prop :=
  ∀ (s : State) (idx : Byte) (v : Word),
    let failed : StatusCode → State := fun c =>
      { s with status := { s.status with err := true }, rsp := s.rsp ++ [responseWord c 0x02#8 0#16 0#32] }
    (idx.toNat ∉ [0x01, 0x02, 0x10, 0x11, 0x12, 0x13, 0x14, 0x20, 0x21, 0x22, 0x23, 0x24, 0x30, 0x31, 0x40, 0x41, 0x50,
        0x51, 0x52, 0x53, 0x54] → exec (.wrreg idx v) s = .next (failed .badReg))
      ∧ (idx.toNat = 0x02 ∧ 4 ≤ v.toNat ∨ idx.toNat = 0x30 ∧ 65535 < v.toNat
          ∨ idx.toNat = 0x31 ∧ (v.toNat = 0 ∨ 65536 < v.toNat) →
        exec (.wrreg idx v) s = .next (failed .invalidArg))

/-- RDBIN answers the bin and changes nothing else; it needs no READY bit (40_control_commands.md, RDBIN). -/
def Obligations.RdbinReadsTheBin : Prop :=
  ∀ (s : State) (idx : Byte) (h : idx.toNat < s.hist.bins.length),
    exec (.rdbin idx) s = .next { s with rsp := s.rsp ++ [responseWord .ok 0x04#8 0#16 (s.hist.bins[idx.toNat])] }

/-! ## Filter chain -/

/-- 41_filter_chain.md R150, R151, R152: one sample through bandpass, rectifier and lowpass, each rounded toward minus
infinity and saturated, the clipped value fed back, FSAT set when something clipped; nothing else changes. -/
def Obligations.FltStepComputesTheChain : Prop :=
  ∀ (pcm : Half) (s : State),
    let clamp : Int → Int := fun v => max (-2147483648) (min 2147483647 v)
    let x : Int := pcm.toInt * 256
    let u : Int := (s.bpf.b0.toInt * x + s.bpf.b1.toInt * s.bpf.x1.toInt + s.bpf.b2.toInt * s.bpf.x2.toInt
      - s.bpf.a1.toInt * s.bpf.y1.toInt - s.bpf.a2.toInt * s.bpf.y2.toInt) / 2 ^ 30
    let y := clamp u
    let r := clamp |y|
    let v : Int := (s.lpf.b0.toInt * r + s.lpf.b1.toInt * s.lpf.x1.toInt + s.lpf.b2.toInt * s.lpf.x2.toInt
      - s.lpf.a1.toInt * s.lpf.y1.toInt - s.lpf.a2.toInt * s.lpf.y2.toInt) / 2 ^ 30
    let e := clamp v
    exec (.fltStep pcm) s = .next { s with
      bpf := { s.bpf with
        x1 := BitVec.ofInt 32 x, x2 := s.bpf.x1, y1 := BitVec.ofInt 32 y, y2 := s.bpf.y1 }
      lpf := { s.lpf with
        x1 := BitVec.ofInt 32 r, x2 := s.lpf.x1, y1 := BitVec.ofInt 32 e, y2 := s.lpf.y1 }
      status := { s.status with fsat := s.status.fsat || decide (y ≠ u ∨ r ≠ |y| ∨ e ≠ v) }
      rsp := s.rsp ++ [responseWord .ok 0x10#8 0#16 (BitVec.ofInt 32 e)] }

/-- With identity coefficients, as after reset, FLT_STEP answers the exact magnitude of the sample times 256 and clips
nothing, whatever the delay lines hold (41_filter_chain.md, FLT_STEP's corner cases and section 3). -/
def Obligations.IdentityChainIsTheMagnitude : Prop :=
  ∀ (pcm : Half) (s : State),
    s.bpf.b0 = 0x40000000#32 → s.bpf.b1 = 0#32 → s.bpf.b2 = 0#32 → s.bpf.a1 = 0#32 → s.bpf.a2 = 0#32 →
    s.lpf.b0 = 0x40000000#32 → s.lpf.b1 = 0#32 → s.lpf.b2 = 0#32 → s.lpf.a1 = 0#32 → s.lpf.a2 = 0#32 →
    ∃ t, exec (.fltStep pcm) s = .next t ∧ t.status = s.status
      ∧ t.rsp = s.rsp ++ [responseWord .ok 0x10#8 0#16 (BitVec.ofInt 32 (|pcm.toInt| * 256))]

/-! ## Normalizer -/

/-- 42_normalizer.md R171, for every block: the decay, the widening to the block's extremes, the degenerate case, FSAT;
and, the inference R171 marks as derived, after it SMIN is below SMAX and every value of the block lies between
them. -/
def Obligations.NormUpdateFollowsTheRule : Prop :=
  ∀ (s : State) (es : List Word), es ≠ [] → 1 ≤ s.norm.eps.toNat →
    let clamp : Int → Int := fun v => max (-2147483648) (min 2147483647 v)
    let m : Int := s.norm.smax.toInt - |s.norm.smax.toInt| * s.norm.decay.toNat / 2 ^ 16
    let l : Int := s.norm.smin.toInt + |s.norm.smin.toInt| * s.norm.decay.toNat / 2 ^ 16
    let eps : Int := s.norm.eps.toNat
    ∃ hi lo : Int,
      (clamp m ≤ hi ∧ (∀ e ∈ es, e.toInt ≤ hi) ∧ (hi = clamp m ∨ ∃ e ∈ es, hi = e.toInt))
        ∧ (lo ≤ clamp l ∧ (∀ e ∈ es, lo ≤ e.toInt) ∧ (lo = clamp l ∨ ∃ e ∈ es, lo = e.toInt))
        ∧ s.normUpdate es = { s with
            norm := { s.norm with
              smax := BitVec.ofInt 32 (if hi ≤ lo ∧ hi - eps < -2147483648 then -2147483648 + eps else hi)
              smin := BitVec.ofInt 32
                (if hi ≤ lo then if hi - eps < -2147483648 then -2147483648 else hi - eps else lo) }
            status := { s.status with fsat := s.status.fsat || decide (clamp m ≠ m ∨ clamp l ≠ l) } }
        ∧ (s.normUpdate es).norm.smin.toInt < (s.normUpdate es).norm.smax.toInt
        ∧ ∀ e ∈ es, (s.normUpdate es).norm.smin.toInt ≤ e.toInt ∧ e.toInt ≤ (s.normUpdate es).norm.smax.toInt

/-- 42_normalizer.md R172: the rescaled sample of a value of the block, clamped to NORM_CEIL exactly at SMAX. -/
def Obligations.RescaleFollowsTheRule : Prop :=
  ∀ (n : Normalizer) (e : Word), n.smin.toInt < n.smax.toInt → n.smin.toInt ≤ e.toInt → e.toInt ≤ n.smax.toInt →
    ((n.rescale e).toNat : Int)
        = min 1073741823 ((e.toInt - n.smin.toInt) * 2 ^ 30 / (n.smax.toInt - n.smin.toInt))
      ∧ (1073741823 < (e.toInt - n.smin.toInt) * 2 ^ 30 / (n.smax.toInt - n.smin.toInt) ↔ e.toInt = n.smax.toInt)

/-- NRM_STEP: the update on a block of one, then the rescale (42_normalizer.md section 2); nothing else changes. -/
def Obligations.NrmStepResult : Prop :=
  ∀ (e : Word) (s : State), 1 ≤ s.norm.eps.toNat →
    let clamp : Int → Int := fun v => max (-2147483648) (min 2147483647 v)
    let m : Int := s.norm.smax.toInt - |s.norm.smax.toInt| * s.norm.decay.toNat / 2 ^ 16
    let l : Int := s.norm.smin.toInt + |s.norm.smin.toInt| * s.norm.decay.toNat / 2 ^ 16
    let eps : Int := s.norm.eps.toNat
    let hi := max (clamp m) e.toInt
    let lo := min (clamp l) e.toInt
    let smax := if hi ≤ lo ∧ hi - eps < -2147483648 then -2147483648 + eps else hi
    let smin := if hi ≤ lo then if hi - eps < -2147483648 then -2147483648 else hi - eps else lo
    let n := min 1073741823 ((e.toInt - smin) * 2 ^ 30 / (smax - smin))
    exec (.nrmStep e) s = .next { s with
      norm := { s.norm with smax := BitVec.ofInt 32 smax, smin := BitVec.ofInt 32 smin }
      status := { s.status with fsat := s.status.fsat || decide (clamp m ≠ m ∨ clamp l ≠ l) }
      rsp := s.rsp ++ [responseWord .ok 0x18#8 0#16 (BitVec.ofInt 32 n)] }

/-- On states with SMIN <= 0 <= SMAX and a legal NORM_DECAY, the decay moves both ends toward zero without passing it
and never clips (42_normalizer.md section 3, the reachable range). -/
def Obligations.NormDecayTowardZero : Prop :=
  ∀ n : Normalizer, n.smin.toInt ≤ 0 → 0 ≤ n.smax.toInt → n.decay.toNat ≤ 65535 →
    0 ≤ n.decayedMax ∧ n.decayedMax ≤ n.smax.toInt ∧ n.smin.toInt ≤ n.decayedMin ∧ n.decayedMin ≤ 0 ∧ n.clips = false

/-! ## Tracker -/

/-- TRK_INIT: a legal configuration starts the range -1 .. +1 and restarts the edge detector; an illegal one answers
INVALID_ARG and changes nothing but ERR (43_threshold_tracker.md section 1). -/
def Obligations.TrkInitStartsOrRejects : Prop :=
  ∀ s : State,
    (s.trk.decayStep.toNat ≠ 0 → 2 * s.trk.decayStep.toNat < s.trk.minRange.toNat →
        exec .trkInit s = .next { s with
          trk := { s.trk with tmin := 0xFFFFFFFF#32, tmax := 1#32 }
          edgeCount := 0#32
          status := { s.status with below := false, edgeValid := false, trkReady := true }
          rsp := s.rsp ++ [responseWord .ok 0x20#8 0#16 0#32] })
      ∧ (s.trk.decayStep.toNat = 0 ∨ s.trk.minRange.toNat ≤ 2 * s.trk.decayStep.toNat →
        exec .trkInit s = .next { s with
          status := { s.status with err := true }
          rsp := s.rsp ++ [responseWord .invalidArg 0x20#8 0#16 0#32] })

/-- 43_threshold_tracker.md R194, with R195 for its step 3: TRK_UPDATE widens, decays the side opposite the sample, and
restores a crossed range; it answers the midpoint. The two bounds say that the decayed ends fit their registers. -/
def Obligations.TrkUpdateResult : Prop :=
  ∀ (sample : Word) (s : State), s.status.trkReady = true → sample.toNat ≤ 0x7FFFFFFF →
    let x : Int := sample.toNat
    let step : Int := s.trk.decayStep.toNat
    let lo := min s.trk.tmin.toInt x
    let hi := max s.trk.tmax.toInt x
    let wide : Bool := decide ((s.trk.minRange.toNat : Int) ≤ hi - lo)
    let mid := lo + (hi - lo) / 2
    let lo2 := if wide = true ∧ mid < x then lo + step else lo
    let hi2 := if wide = true ∧ x < mid then hi - step else hi
    lo2 ≤ 2147483647 → -2147483648 ≤ hi2 →
    let lo3 := min lo2 hi2
    let hi3 := max lo2 hi2
    exec (.trkUpdate sample) s = .next { s with
      trk := { s.trk with tmin := BitVec.ofInt 32 lo3, tmax := BitVec.ofInt 32 hi3 }
      status := { s.status with corr := s.status.corr || decide (hi2 < lo2) }
      rsp := s.rsp ++ [responseWord .ok 0x21#8 0#16 (BitVec.ofInt 32 (lo3 + (hi3 - lo3) / 2))] }

/-- 43_threshold_tracker.md R193: the thresholds TRK_MID, TRK_POS and TRK_NEG answer, changing nothing else; and, the
consequence R193 marks as derived, their order and when the lower equals the upper. -/
def Obligations.TrkReadsThresholds : Prop :=
  ∀ s : State, s.status.trkReady = true →
    let lo := s.trk.tmin.toInt
    let hi := s.trk.tmax.toInt
    let mid := lo + (hi - lo) / 2
    let neg := lo + (hi - lo) / 4
    exec .trkMid s = .next { s with rsp := s.rsp ++ [responseWord .ok 0x22#8 0#16 (BitVec.ofInt 32 mid)] }
      ∧ exec .trkPos s = .next { s with rsp := s.rsp ++ [responseWord .ok 0x23#8 0#16 (BitVec.ofInt 32 mid)] }
      ∧ exec .trkNeg s = .next { s with rsp := s.rsp ++ [responseWord .ok 0x24#8 0#16 (BitVec.ofInt 32 neg)] }
      ∧ (lo ≤ hi → lo ≤ neg ∧ neg ≤ mid ∧ mid ≤ hi ∧ (neg = mid ↔ hi - lo ≤ 1))

/-- 43_threshold_tracker.md R192: a sample above 2^31 - 1 makes TRK_UPDATE, EDG_UPDATE and NSTEP answer INVALID_ARG and
write nothing; the samples PROC_BLOCK makes, rescaled envelope values, never exceed NORM_CEIL. -/
def Obligations.SampleAboveRangeRejected : Prop :=
  (∀ (sample : Word) (s : State), s.status.trkReady = true → 0x7FFFFFFF < sample.toNat →
    let failed : Byte → State := fun opc =>
      { s with status := { s.status with err := true }, rsp := s.rsp ++ [responseWord .invalidArg opc 0#16 0#32] }
    exec (.trkUpdate sample) s = .next (failed 0x21#8) ∧ exec (.edgUpdate sample) s = .next (failed 0x28#8)
      ∧ exec (.nstep sample) s = .next (failed 0x30#8))
    ∧ ∀ (n : Normalizer) (e : Word), (n.rescale e).toNat ≤ 1073741823

/-- The inference 43_threshold_tracker.md R200 marks as derived: from a sound range every update leaves a sound range that holds the sample. -/
def Obligations.TrackerHoldsTheSample : Prop :=
  ∀ (t : Tracker) (x : Int), t.Sound → 0 ≤ x → x ≤ 2147483647 →
    (t.update x).Sound ∧ (t.update x).tmin.toInt ≤ x ∧ x ≤ (t.update x).tmax.toInt ∧ t.corrects x = false

/-- The inference 43_threshold_tracker.md R201 marks as derived: once the range has reached TRK_MIN_RANGE, it never falls below TRK_MIN_RANGE minus
TRK_DECAY_STEP, whatever samples follow. -/
def Obligations.TrackerRangeFloor : Prop :=
  ∀ (t : Tracker) (xs : List Int), t.Sound → (t.minRange.toNat : Int) ≤ t.range →
    (∀ x ∈ xs, 0 ≤ x ∧ x ≤ 2147483647) →
    (t.minRange.toNat : Int) - t.decayStep.toNat ≤ (xs.foldl Tracker.update t).range

/-- 60_exceptions.md R317, its last sentence: on states that satisfy the invariants no step sets CORR. -/
def Obligations.CorrectionNeverRecorded : Prop :=
  ∀ s t : State, s.Inv → step s = .next t → t.status.corr = true → s.status.corr = true

/-! ## Edge detector -/

/-- 44_edge_detector.md R221: the first sample after TRK_INIT sets the state and returns no event. -/
def Obligations.EdgFirstSample : Prop :=
  ∀ (sample : Word) (s : State), s.status.trkReady = true → sample.toNat ≤ 0x7FFFFFFF → s.status.edgeValid = false →
    exec (.edgUpdate sample) s = .next { s with
      status := { s.status with below := decide (sample.toNat = 0), edgeValid := true }
      edgeCount := 1#32
      rsp := s.rsp ++ [responseWord .ok 0x28#8 0#16 0#32] }

/-- 44_edge_detector.md R222: every later sample: Rising, Falling, or one more sample in the state. -/
def Obligations.EdgLaterSample : Prop :=
  ∀ (sample : Word) (s : State), s.status.trkReady = true → sample.toNat ≤ 0x7FFFFFFF → s.status.edgeValid = true →
    let x : Int := sample.toNat
    let pos := s.trk.tmin.toInt + (s.trk.tmax.toInt - s.trk.tmin.toInt) / 2
    let neg := s.trk.tmin.toInt + (s.trk.tmax.toInt - s.trk.tmin.toInt) / 4
    exec (.edgUpdate sample) s = .next
      (if s.status.below = true ∧ pos < x then
        { s with
          status := { s.status with below := false }
          edgeCount := 1#32
          rsp := s.rsp
            ++ [responseWord .ok 0x28#8 0#16 (BitVec.ofInt 32 (min (s.edgeCount.toNat : Int) 2147483647))] }
      else if s.status.below = false ∧ x < neg then
        { s with
          status := { s.status with below := true }
          edgeCount := 1#32
          rsp := s.rsp
            ++ [responseWord .ok 0x28#8 0#16 (BitVec.ofInt 32 (-min (s.edgeCount.toNat : Int) 2147483648))] }
      else
        { s with
          edgeCount := BitVec.ofNat 32 (min (s.edgeCount.toNat + 1) 4294967295)
          rsp := s.rsp ++ [responseWord .ok 0x28#8 0#16 0#32] })

/-- A constant sample stream fed by NSTEP to a freshly initialised comparator never emits an edge (44_edge_detector.md
section 4, property (a)). -/
def Obligations.ConstantStreamEmitsNoEdge : Prop :=
  ∀ (s0 s : State) (sample : Word) (k : Nat), s0.trk.decayStep.toNat ≠ 0 →
    2 * s0.trk.decayStep.toNat < s0.trk.minRange.toNat → exec .trkInit s0 = .next s → sample.toNat ≤ 0x7FFFFFFF →
    ∃ t, execAll (List.replicate k (.nstep sample)) s = some t ∧ t.queue = s0.queue
      ∧ resultsSince s t = List.replicate k 0#32

/-! ## Fused step, block, queue -/

/-- 45_block_and_queue.md R241: NSTEP is TRK_UPDATE, then EDG_UPDATE against the updated thresholds, then the push of a
non-zero event, which a full queue drops with QOVF and QDROP. -/
def Obligations.NstepIsTrackThenEdgeThenPush : Prop :=
  ∀ (sample : Word) (s : State), s.status.trkReady = true → sample.toNat ≤ 0x7FFFFFFF →
    ∃ (a b : State) (ev : Word), exec (.trkUpdate sample) s = .next a ∧ exec (.edgUpdate sample) a = .next b
      ∧ b.rsp = a.rsp ++ [responseWord .ok 0x28#8 0#16 ev]
      ∧ exec (.nstep sample) s = .next
          (if ev = 0#32 then { b with rsp := s.rsp ++ [responseWord .ok 0x30#8 0#16 0#32] }
          else if s.queue.length = 16 then
            { b with
              status := { b.status with qovf := true }
              qdrop := BitVec.ofNat 32 (min (s.qdrop.toNat + 1) 4294967295)
              rsp := s.rsp ++ [responseWord .ok 0x30#8 1#16 ev] }
          else { b with queue := s.queue ++ [ev], rsp := s.rsp ++ [responseWord .ok 0x30#8 0#16 ev] })

/-- EVT_SUBMIT: zero is rejected; otherwise the event is appended at the tail, or dropped by a full queue with QFULL,
QOVF and QDROP (45_block_and_queue.md section 3; 10_state.md section 3). -/
def Obligations.EvtSubmitQueuesOrDrops : Prop :=
  ∀ (ev : Word) (s : State),
    (ev = 0#32 → exec (.evtSubmit ev) s = .next { s with
        status := { s.status with err := true }
        rsp := s.rsp ++ [responseWord .invalidArg 0x32#8 0#16 0#32] })
      ∧ (ev ≠ 0#32 → s.queue.length ≠ 16 → exec (.evtSubmit ev) s = .next { s with
        queue := s.queue ++ [ev]
        rsp := s.rsp ++ [responseWord .ok 0x32#8 0#16 0#32] })
      ∧ (ev ≠ 0#32 → s.queue.length = 16 → exec (.evtSubmit ev) s = .next { s with
        status := { s.status with qovf := true }
        qdrop := BitVec.ofNat 32 (min (s.qdrop.toNat + 1) 4294967295)
        rsp := s.rsp ++ [responseWord .qfull 0x32#8 0#16 0#32] })

/-- 45_block_and_queue.md R243, on a legal non-empty block: PROC_BLOCK is FLT_STEP on the selected halfword of every
frame, one `norm_update` on their envelopes, and NSTEP on every normalized sample, with one response that counts the
non-zero events; only AUD is left to `ProcBlockDebugCopy`. -/
def Obligations.ProcBlockIsTheSingleStageCommands : Prop :=
  ∀ (count : Half) (base : Word) (s : State), s.status.trkReady = true → 1 ≤ count.toNat → count.toNat ≤ 1024 →
    base.toNat % 4 = 0 → base.toNat + 4 * count.toNat ≤ 4096 →
    ∃ (a c : State) (m : Memory),
      execAll ((blockSamples s count base).map .fltStep) s = some a
        ∧ (let es := resultsSince s a
           let b := a.normUpdate es
           execAll ((es.map b.norm.rescale).map .nstep) b = some c
             ∧ exec (.procBlock count base) s = .next { c with
                 aud := m
                 rsp := s.rsp ++ [responseWord .ok 0x31#8
                   (BitVec.ofNat 16 ((resultsSince b c).filter (fun ev => decide (ev ≠ 0#32))).length)
                   (BitVec.ofNat 32 (4 * count.toNat))] })

/-- 20_memory.md R92 with the addresses of R88: with DBGOUT both halfwords of every processed frame hold `n >> 15`,
little-endian; every other byte, and without DBGOUT every byte, is as before. The normalized samples are those of
the commands that `ProcBlockIsTheSingleStageCommands` says the block is. That AUD keeps its canonical form is the
model's representation (log 4), which R92 does not state. -/
def Obligations.ProcBlockDebugCopy : Prop :=
  ∀ (count : Half) (base : Word) (s : State), s.status.trkReady = true → 1 ≤ count.toNat → count.toNat ≤ 1024 →
    base.toNat % 4 = 0 → base.toNat + 4 * count.toNat ≤ 4096 → s.aud.wf = true →
    ∃ (t a : State), exec (.procBlock count base) s = .next t ∧ t.aud.wf = true
      ∧ execAll ((blockSamples s count base).map .fltStep) s = some a
      ∧ (s.ctrl.getLsbD 1 = false → t.aud = s.aud)
      ∧ (∀ addr, addr < base.toNat ∨ base.toNat + 4 * count.toNat ≤ addr →
          Memory.get t.aud addr = Memory.get s.aud addr)
      ∧ (s.ctrl.getLsbD 1 = true → ∀ i k, i < count.toNat → k < 4 →
          let n := (s.norm.update (resultsSince s a)).rescale ((resultsSince s a).getD i 0#32)
          Memory.get t.aud (base.toNat + 4 * i + k) =
            BitVec.ofNat 8 (if k % 2 = 0 then n.toNat / 2 ^ 15 else n.toNat / 2 ^ 23))

/-- PROC_BLOCK's checks in order: count before address, and an empty block with a legal base does nothing; the
NOT_INIT check before them is `NotInitWithoutReady` (45_block_and_queue.md section 2; 60_exceptions.md section 1). -/
def Obligations.ProcBlockChecksInOrder : Prop :=
  ∀ (count : Half) (base : Word) (s : State), s.status.trkReady = true →
    let failed : StatusCode → State := fun c =>
      { s with status := { s.status with err := true }, rsp := s.rsp ++ [responseWord c 0x31#8 0#16 0#32] }
    (1024 < count.toNat → exec (.procBlock count base) s = .next (failed .invalidArg))
      ∧ (count.toNat ≤ 1024 → (base.toNat % 4 ≠ 0 ∨ 4096 < base.toNat + 4 * count.toNat) →
          exec (.procBlock count base) s = .next (failed .addrErr))
      ∧ (count.toNat = 0 → base.toNat % 4 = 0 → base.toNat ≤ 4096 →
          exec (.procBlock count base) s = .next { s with
            rsp := s.rsp ++ [responseWord .ok 0x31#8 0#16 0#32] })

/-! ## Histogram -/

/-- HIST_INIT: a legal configuration empties all 256 bins and derives T_CUR from the empty histogram; an illegal one
answers INVALID_ARG and changes nothing but ERR (46_histogram.md section 1). -/
def Obligations.HistInitStartsOrRejects : Prop :=
  ∀ s : State,
    let lo := s.hist.minVal.toNat
    let hi := s.hist.maxVal.toNat
    let nb := s.hist.nbins.toNat
    let sp := s.hist.spread.toNat
    let legal := 1 ≤ nb ∧ nb ≤ 256 ∧ lo < hi ∧ 1 ≤ s.hist.decay.toNat ∧ s.hist.decay.toNat ≤ 65536 ∧ 2 * sp + 2 ≤ nb
    (legal → exec .histInit s = .next { s with
        hist := { s.hist with
          bins := List.replicate 256 0#32
          tCur := BitVec.ofNat 32 (lo + (sp + 2) * (hi - lo) / (2 * nb)) }
        status := { s.status with histReady := true, idleFlushed := true }
        rsp := s.rsp ++ [responseWord .ok 0x40#8 0#16 (BitVec.ofNat 32 (lo + (sp + 2) * (hi - lo) / (2 * nb)))] })
      ∧ (¬ legal → exec .histInit s = .next { s with
        status := { s.status with err := true }
        rsp := s.rsp ++ [responseWord .invalidArg 0x40#8 0#16 0#32] })

/-- HIST_ADD: every used bin decays, then the bin that contains the duration counts one sample, saturating; a duration
outside the closed range is not counted; only the bins change (46_histogram.md R262, R263 and section 3). -/
def Obligations.HistAddResult : Prop :=
  ∀ (d : Word) (s : State), s.status.histReady = true → s.hist.Sound →
    let lo := s.hist.minVal.toNat
    let hi := s.hist.maxVal.toNat
    let nb := s.hist.nbins.toNat
    let inRange : Prop := lo ≤ d.toNat ∧ d.toNat ≤ hi
    let i := min ((d.toNat - lo) * nb / (hi - lo)) (nb - 1)
    let decayed : Nat → Nat := fun j =>
      if j < nb then (s.hist.bin j).toNat * s.hist.decay.toNat / 65536 else (s.hist.bin j).toNat
    ∃ bins : List Word, bins.length = 256
      ∧ (inRange → ∀ j, (bins.getD j 0#32).toNat = if j = i then min 4294967295 (decayed j + 65536) else decayed j)
      ∧ (¬ inRange → ∀ j, (bins.getD j 0#32).toNat = decayed j)
      ∧ (inRange → exec (.histAdd d) s = .next { s with
          hist := { s.hist with bins := bins }
          rsp := s.rsp ++ [responseWord .ok 0x41#8 (BitVec.ofNat 16 i) 1#32] })
      ∧ (¬ inRange → exec (.histAdd d) s = .next { s with
          hist := { s.hist with bins := bins }
          rsp := s.rsp ++ [responseWord .ok 0x41#8 0#16 0#32] })

/-- 46_histogram.md R262: HIST_DECAY multiplies every used bin by the factor, rounding down, and changes nothing else;
below a factor of 1.0 every non-zero used bin strictly decreases, at 1.0 none changes. -/
def Obligations.HistDecayResult : Prop :=
  ∀ s : State, s.status.histReady = true → s.hist.Sound →
    let nb := s.hist.nbins.toNat
    let alpha := s.hist.decay.toNat
    ∃ bins : List Word, bins.length = 256
      ∧ (∀ j, (bins.getD j 0#32).toNat =
          if j < nb then (s.hist.bin j).toNat * alpha / 65536 else (s.hist.bin j).toNat)
      ∧ (alpha ≤ 65535 → ∀ j, j < nb → s.hist.bin j ≠ 0#32 → (bins.getD j 0#32).toNat < (s.hist.bin j).toNat)
      ∧ (alpha = 65536 → bins = s.hist.bins)
      ∧ exec .histDecay s = .next { s with
          hist := { s.hist with bins := bins }
          rsp := s.rsp ++ [responseWord .ok 0x42#8 0#16 0#32] }

/-- After finitely many HIST_DECAY commands every used bin is exactly 0, for every factor below 1.0 (46_histogram.md
section 4, property (a)). -/
def Obligations.DecayReachesZero : Prop :=
  ∀ s : State, s.status.histReady = true → s.hist.Sound → s.hist.decay.toNat ≤ 65535 →
    ∃ (k : Nat) (t : State), execAll (List.replicate k .histDecay) s = some t
      ∧ ∀ j, j < s.hist.nbins.toNat → t.hist.bin j = 0#32

/-- 46_histogram.md R264 and R268: HIST_PEAKS answers the two peaks, the pair ordered by index, and writes nothing. -/
def Obligations.HistPeaksResult : Prop :=
  ∀ s : State, s.status.histReady = true → s.hist.Sound →
    ∃ p1 p2 : Nat, s.hist.IsPeaks p1 p2
      ∧ exec .histPeaks s = .next { s with
          rsp := s.rsp ++ [responseWord .ok 0x43#8 (BitVec.ofNat 16 p1)
            (BitVec.ofNat 32 (max p1 p2 * 65536 + min p1 p2))] }

/-- 46_histogram.md R265: HIST_THR answers the midpoint of the two peaks' bin centres, floored, which lies from
HIST_MIN_VAL up to below HIST_MAX_VAL, and writes nothing (not T_CUR either, R269). That it exceeds HIST_MIN_VAL where
the range has at least HIST_NBINS samples is the inference R265 marks as derived. -/
def Obligations.HistThrResult : Prop :=
  ∀ s : State, s.status.histReady = true → s.hist.Sound →
    let lo := s.hist.minVal.toNat
    let hi := s.hist.maxVal.toNat
    let nb := s.hist.nbins.toNat
    ∃ p1 p2 : Nat, s.hist.IsPeaks p1 p2
      ∧ (let thr := lo + (min p1 p2 + max p1 p2 + 1) * (hi - lo) / (2 * nb)
         lo ≤ thr ∧ thr < hi ∧ (nb ≤ hi - lo → lo < thr)
           ∧ exec .histThr s = .next { s with
               rsp := s.rsp ++ [responseWord .ok 0x44#8 0#16 (BitVec.ofNat 32 thr)] })

/-- Two clusters more than HIST_SPREAD apart are the pair HIST_PEAKS answers, whichever is the taller (46_histogram.md
section 4, property (b)). -/
def Obligations.TwoClustersAreThePeaks : Prop :=
  ∀ (s : State) (i j : Nat), s.status.histReady = true → s.hist.Sound → i < j → j < s.hist.nbins.toNat →
    s.hist.spread.toNat < j - i → s.hist.bin i ≠ 0#32 → s.hist.bin j ≠ 0#32 →
    (∀ k, k < s.hist.nbins.toNat → k ≠ i → k ≠ j → s.hist.bin k = 0#32) →
    ∃ p1 : Nat, (p1 = i ∨ p1 = j)
      ∧ exec .histPeaks s = .next { s with
          rsp := s.rsp ++ [responseWord .ok 0x43#8 (BitVec.ofNat 16 p1) (BitVec.ofNat 32 (j * 65536 + i))] }

/-! ## Classifier -/

/-- DEC_STEP on a falling event: the duration goes to the histogram as HIST_ADD would put it, T_CUR is recomputed from
the new peaks, and the tone is a dit below it and a dah from it on (47_classifier.md R293, its falling arm). -/
def Obligations.DecStepTone : Prop :=
  ∀ (s : State) (ev : Word) (rest : List Word), s.status.histReady = true → s.hist.Sound → s.queue = ev :: rest →
    ev.toInt < 0 →
    let d := (-ev.toInt).toNat
    ∃ (a : State) (p1 p2 : Nat), exec (.histAdd (BitVec.ofNat 32 d)) s = .next a ∧ a.hist.IsPeaks p1 p2
      ∧ (let thr := s.hist.minVal.toNat
           + (min p1 p2 + max p1 p2 + 1) * (s.hist.maxVal.toNat - s.hist.minVal.toNat) / (2 * s.hist.nbins.toNat)
         exec .decStep s = .next { s with
           queue := rest
           status := { s.status with idleFlushed := false }
           hist := { a.hist with tCur := BitVec.ofNat 32 thr }
           sym := s.sym ++ [if d < thr then .dit else .dah]
           rsp := s.rsp ++ [responseWord .ok 0x50#8 (if d < thr then 0x0001#16 else 0x0002#16) ev] })

/-- DEC_STEP on a rising event: the gap against T_CUR and against three times T_CUR, nothing but the queue, the symbols
and IDLE_FLUSHED changed (47_classifier.md R293, its rising arm). -/
def Obligations.DecStepGap : Prop :=
  ∀ (s : State) (ev : Word) (rest : List Word), s.status.histReady = true → s.queue = ev :: rest → 0 < ev.toInt →
    exec .decStep s = .next { s with
      queue := rest
      status := { s.status with idleFlushed := false }
      sym := s.sym ++
        (if 3 * s.hist.tCur.toNat ≤ ev.toNat then [.letter, .word]
         else if s.hist.tCur.toNat ≤ ev.toNat then [.letter] else [])
      rsp := s.rsp ++ [responseWord .ok 0x50#8
        (if 3 * s.hist.tCur.toNat ≤ ev.toNat then 0x0403#16
         else if s.hist.tCur.toNat ≤ ev.toNat then 0x0003#16 else 0x0000#16) ev] }

/-- DEC_STEP on an empty queue answers EMPTY and changes nothing (47_classifier.md R293). -/
def Obligations.DecStepEmpty : Prop :=
  ∀ s : State, s.status.histReady = true → s.queue = [] →
    exec .decStep s = .next { s with rsp := s.rsp ++ [responseWord .empty 0x50#8 0#16 0#32] }

/-- DEC_TIMEOUT: NOT_IDLE with an event waiting; LETTER and FLUSH at the first timeout of an idle period; afterwards
exactly what HIST_DECAY does to the histogram; T_CUR is never written (47_classifier.md R294). -/
def Obligations.DecTimeoutArms : Prop :=
  ∀ s : State, s.status.histReady = true →
    (s.queue ≠ [] → exec .decTimeout s = .next { s with
        status := { s.status with err := true }
        rsp := s.rsp ++ [responseWord .notIdle 0x51#8 0#16 0#32] })
      ∧ (s.queue = [] → s.status.idleFlushed = false → exec .decTimeout s = .next { s with
        status := { s.status with idleFlushed := true }
        sym := s.sym ++ [.letter, .flush]
        rsp := s.rsp ++ [responseWord .ok 0x51#8 0x0503#16 0#32] })
      ∧ (s.queue = [] → s.status.idleFlushed = true →
        ∃ a, exec .histDecay s = .next a ∧ a.hist.tCur = s.hist.tCur ∧ exec .decTimeout s = .next { s with
          hist := a.hist
          rsp := s.rsp ++ [responseWord .ok 0x51#8 0#16 0#32] })

/-! ## The whole machine -/

/-- Every step keeps the invariants that 10_state.md R71 marks as derived (and the canonical form of the model's AUD,
log 4), from every state that satisfies them. -/
def Obligations.StepKeepsTheInvariants : Prop := ∀ s t : State, s.Inv → step s = .next t → t.Inv

/-- The reset state satisfies them, with any canonical AUD. -/
def Obligations.ResetMeetsTheInvariants : Prop := ∀ aud : Memory, aud.wf = true → (State.afterReset aud).Inv

/-- A producer command writes no consumer state and no configuration, and only appends to the queue (10_state.md
section 4, state ownership). -/
def Obligations.ProducerLeavesConsumerState : Prop :=
  ∀ (i : Instr) (s t : State), i.cmdClass = .producer → exec i s = .next t →
    t.hist = s.hist ∧ t.sym = s.sym ∧ t.status.histReady = s.status.histReady
      ∧ t.status.idleFlushed = s.status.idleFlushed ∧ t.status.illcmd = s.status.illcmd ∧ t.ctrl = s.ctrl
      ∧ t.input = s.input ∧ t.audOut = s.audOut ∧ s.queue <+: t.queue
      ∧ t.norm.decay = s.norm.decay ∧ t.norm.eps = s.norm.eps
      ∧ t.trk.decayStep = s.trk.decayStep ∧ t.trk.minRange = s.trk.minRange
      ∧ [t.bpf.b0, t.bpf.b1, t.bpf.b2, t.bpf.a1, t.bpf.a2] = [s.bpf.b0, s.bpf.b1, s.bpf.b2, s.bpf.a1, s.bpf.a2]
      ∧ [t.lpf.b0, t.lpf.b1, t.lpf.b2, t.lpf.a1, t.lpf.a2] = [s.lpf.b0, s.lpf.b1, s.lpf.b2, s.lpf.a1, s.lpf.a2]

/-- A consumer command writes no producer state (so repeated timeouts never change EDGE_COUNT, 44_edge_detector.md
R226) and takes at most the oldest event off the queue (10_state.md section 4, state ownership). -/
def Obligations.ConsumerLeavesProducerState : Prop :=
  ∀ (i : Instr) (s t : State), i.cmdClass = .consumer → exec i s = .next t →
    t.bpf = s.bpf ∧ t.lpf = s.lpf ∧ t.norm = s.norm ∧ t.trk = s.trk ∧ t.edgeCount = s.edgeCount
      ∧ t.qdrop = s.qdrop ∧ t.ctrl = s.ctrl ∧ t.aud = s.aud ∧ t.input = s.input ∧ t.audOut = s.audOut
      ∧ t.status.trkReady = s.status.trkReady ∧ t.status.edgeValid = s.status.edgeValid
      ∧ t.status.below = s.status.below ∧ t.status.qovf = s.status.qovf ∧ t.status.corr = s.status.corr
      ∧ t.status.illcmd = s.status.illcmd ∧ t.status.fsat = s.status.fsat
      ∧ (t.queue = s.queue ∨ ∃ ev, s.queue = ev :: t.queue) ∧ s.sym <+: t.sym
      ∧ t.hist.minVal = s.hist.minVal ∧ t.hist.maxVal = s.hist.maxVal ∧ t.hist.nbins = s.hist.nbins
      ∧ t.hist.spread = s.hist.spread ∧ t.hist.decay = s.hist.decay

/-- A producer and a consumer command that are adjacent give the same state and the same symbols in either order, but
for the order of their two responses, from a queue that is neither empty nor longer than 16, when QOVF is 0 after the
producer command (10_state.md section 4; the spec marks it as derived in R70). With QOVF already set, with an empty
queue, and with pairs of which one does not use the queue, it is `ProducerAndConsumerCommuteOtherwise`. -/
def Obligations.ProducerAndConsumerCommute : Prop :=
  ∀ (p c : Instr) (s a t u v : State), p.cmdClass = .producer → c.cmdClass = .consumer → s.queue ≠ [] →
    s.queue.length ≤ 16 → exec p s = .next a → a.status.qovf = false → exec c a = .next t → exec c s = .next u →
    exec p u = .next v →
    { t with rsp := s.rsp } = { v with rsp := s.rsp }
      ∧ ∃ rp rc : CmdWord, t.rsp = s.rsp ++ [rp, rc] ∧ v.rsp = s.rsp ++ [rc, rp]

/-- The same where `ProducerAndConsumerCommute` does not reach: from every state, whatever the queue holds, when one of
the two commands does not use the queue; and with QOVF already set, when the producer command drops nothing, which
QDROP shows while it is not saturated (10_state.md section 4; the spec marks it as derived in R70). -/
def Obligations.ProducerAndConsumerCommuteOtherwise : Prop :=
  ∀ (p c : Instr) (s a t u v : State), p.cmdClass = .producer → c.cmdClass = .consumer →
    ((c ≠ .decStep ∧ c ≠ .decTimeout)
      ∨ ((∀ x, p ≠ .nstep x) ∧ (∀ n b, p ≠ .procBlock n b) ∧ ∀ ev, p ≠ .evtSubmit ev)
      ∨ (s.queue ≠ [] ∧ s.queue.length ≤ 16 ∧ s.qdrop.toNat < 4294967295 ∧ a.qdrop = s.qdrop)) →
    exec p s = .next a → exec c a = .next t → exec c s = .next u → exec p u = .next v →
    { t with rsp := s.rsp } = { v with rsp := s.rsp }
      ∧ ∃ rp rc : CmdWord, t.rsp = s.rsp ++ [rp, rc] ∧ v.rsp = s.rsp ++ [rc, rp]
end

