-- ==== Sys2Proof/Laws/Arith.lean ====
section
/-! SUPPORT. The integer primitives: ranges of registers, saturation, narrowing. -/

namespace Sys2Proof.Machine

theorem word_toInt_range (w : Word) : -2147483648 ≤ w.toInt ∧ w.toInt ≤ 2147483647 := by
  have h1 := BitVec.le_toInt w
  have h2 := BitVec.toInt_lt (x := w)
  omega

theorem half_toInt_range (w : Half) : -32768 ≤ w.toInt ∧ w.toInt ≤ 32767 := by
  have h1 := BitVec.le_toInt w
  have h2 := BitVec.toInt_lt (x := w)
  omega

/-- A value in the range of s32 is kept by its register. -/
theorem toReg_toInt {v : Int} (h1 : -2147483648 ≤ v) (h2 : v ≤ 2147483647) : (toReg v).toInt = v := by
  unfold toReg
  rw [BitVec.toInt_ofInt]
  exact Int.bmod_eq_of_le (by omega) (by omega)

@[simp] theorem toReg_toInt_self (w : Word) : toReg w.toInt = w := by
  simp [toReg]

/-- A value in the range of u32 is kept by its register. -/
theorem toRegU_toNat {n : Nat} (h : n < 4294967296) : (toRegU n).toNat = n := by
  simp [toRegU, Nat.mod_eq_of_lt h]

@[simp] theorem toRegU_toNat_self (w : Word) : toRegU w.toNat = w := by
  simp [toRegU]

theorem toReg_toNat {v : Int} (h1 : 0 ≤ v) (h2 : v < 4294967296) : ((toReg v).toNat : Int) = v := by
  simp only [toReg, BitVec.toNat_ofInt]
  omega

theorem sat32_eq (x : Int) : sat32 x = max (-2147483648) (min 2147483647 x) := by
  unfold sat32
  split
  · omega
  · split <;> omega

theorem sat32_range (x : Int) : -2147483648 ≤ sat32 x ∧ sat32 x ≤ 2147483647 := by
  rw [sat32_eq]
  omega

theorem sat32_of_range {x : Int} (h1 : -2147483648 ≤ x) (h2 : x ≤ 2147483647) : sat32 x = x := by
  rw [sat32_eq]
  omega

theorem sat32Clips_eq_false {x : Int} (h1 : -2147483648 ≤ x) (h2 : x ≤ 2147483647) : sat32Clips x = false := by
  simp only [sat32Clips, decide_eq_false_iff_not]
  omega

theorem satu32_eq (x : Nat) : satu32 x = min 4294967295 x := by
  unfold satu32
  split <;> omega

theorem toReg_sat32_toInt (x : Int) : (toReg (sat32 x)).toInt = sat32 x :=
  toReg_toInt (sat32_range x).1 (sat32_range x).2

theorem toRegU_satu32_toNat (x : Nat) : (toRegU (satu32 x)).toNat = min 4294967295 x := by
  rw [satu32_eq, toRegU_toNat (by omega)]

end Sys2Proof.Machine
end

