-- ==== Sys2Proof/Laws/State.lean ====
section
/-! SUPPORT. One lemma per field per update, each true by rfl. -/

namespace Sys2Proof.Machine

/-! ### `State.respond` -/

@[simp] theorem State.respond_status (s : State) (c : StatusCode) (opc : Byte) (aux : Half) (r : Word) :
    (s.respond c opc aux r).status = s.status := rfl

@[simp] theorem State.respond_ctrl (s : State) (c : StatusCode) (opc : Byte) (aux : Half) (r : Word) :
    (s.respond c opc aux r).ctrl = s.ctrl := rfl

@[simp] theorem State.respond_qdrop (s : State) (c : StatusCode) (opc : Byte) (aux : Half) (r : Word) :
    (s.respond c opc aux r).qdrop = s.qdrop := rfl

@[simp] theorem State.respond_bpf (s : State) (c : StatusCode) (opc : Byte) (aux : Half) (r : Word) :
    (s.respond c opc aux r).bpf = s.bpf := rfl

@[simp] theorem State.respond_lpf (s : State) (c : StatusCode) (opc : Byte) (aux : Half) (r : Word) :
    (s.respond c opc aux r).lpf = s.lpf := rfl

@[simp] theorem State.respond_norm (s : State) (c : StatusCode) (opc : Byte) (aux : Half) (r : Word) :
    (s.respond c opc aux r).norm = s.norm := rfl

@[simp] theorem State.respond_trk (s : State) (c : StatusCode) (opc : Byte) (aux : Half) (r : Word) :
    (s.respond c opc aux r).trk = s.trk := rfl

@[simp] theorem State.respond_edgeCount (s : State) (c : StatusCode) (opc : Byte) (aux : Half) (r : Word) :
    (s.respond c opc aux r).edgeCount = s.edgeCount := rfl

@[simp] theorem State.respond_hist (s : State) (c : StatusCode) (opc : Byte) (aux : Half) (r : Word) :
    (s.respond c opc aux r).hist = s.hist := rfl

@[simp] theorem State.respond_queue (s : State) (c : StatusCode) (opc : Byte) (aux : Half) (r : Word) :
    (s.respond c opc aux r).queue = s.queue := rfl

@[simp] theorem State.respond_aud (s : State) (c : StatusCode) (opc : Byte) (aux : Half) (r : Word) :
    (s.respond c opc aux r).aud = s.aud := rfl

@[simp] theorem State.respond_input (s : State) (c : StatusCode) (opc : Byte) (aux : Half) (r : Word) :
    (s.respond c opc aux r).input = s.input := rfl

@[simp] theorem State.respond_rsp (s : State) (c : StatusCode) (opc : Byte) (aux : Half) (r : Word) :
    (s.respond c opc aux r).rsp = s.rsp ++ [responseWord c opc aux r] := rfl

@[simp] theorem State.respond_sym (s : State) (c : StatusCode) (opc : Byte) (aux : Half) (r : Word) :
    (s.respond c opc aux r).sym = s.sym := rfl

@[simp] theorem State.respond_audOut (s : State) (c : StatusCode) (opc : Byte) (aux : Half) (r : Word) :
    (s.respond c opc aux r).audOut = s.audOut := rfl

/-! ### `State.raise` -/

@[simp] theorem State.raise_status (s : State) (c : StatusCode) (opc : Byte) :
    (s.raise c opc).status = s.status.recordFailure c := rfl

@[simp] theorem State.raise_ctrl (s : State) (c : StatusCode) (opc : Byte) :
    (s.raise c opc).ctrl = s.ctrl := rfl

@[simp] theorem State.raise_qdrop (s : State) (c : StatusCode) (opc : Byte) :
    (s.raise c opc).qdrop = s.qdrop := rfl

@[simp] theorem State.raise_bpf (s : State) (c : StatusCode) (opc : Byte) :
    (s.raise c opc).bpf = s.bpf := rfl

@[simp] theorem State.raise_lpf (s : State) (c : StatusCode) (opc : Byte) :
    (s.raise c opc).lpf = s.lpf := rfl

@[simp] theorem State.raise_norm (s : State) (c : StatusCode) (opc : Byte) :
    (s.raise c opc).norm = s.norm := rfl

@[simp] theorem State.raise_trk (s : State) (c : StatusCode) (opc : Byte) :
    (s.raise c opc).trk = s.trk := rfl

@[simp] theorem State.raise_edgeCount (s : State) (c : StatusCode) (opc : Byte) :
    (s.raise c opc).edgeCount = s.edgeCount := rfl

@[simp] theorem State.raise_hist (s : State) (c : StatusCode) (opc : Byte) :
    (s.raise c opc).hist = s.hist := rfl

@[simp] theorem State.raise_queue (s : State) (c : StatusCode) (opc : Byte) :
    (s.raise c opc).queue = s.queue := rfl

@[simp] theorem State.raise_aud (s : State) (c : StatusCode) (opc : Byte) :
    (s.raise c opc).aud = s.aud := rfl

@[simp] theorem State.raise_input (s : State) (c : StatusCode) (opc : Byte) :
    (s.raise c opc).input = s.input := rfl

@[simp] theorem State.raise_rsp (s : State) (c : StatusCode) (opc : Byte) :
    (s.raise c opc).rsp = s.rsp ++ [responseWord c opc 0#16 0#32] := rfl

@[simp] theorem State.raise_sym (s : State) (c : StatusCode) (opc : Byte) :
    (s.raise c opc).sym = s.sym := rfl

@[simp] theorem State.raise_audOut (s : State) (c : StatusCode) (opc : Byte) :
    (s.raise c opc).audOut = s.audOut := rfl

/-! ### `State.emit` -/

@[simp] theorem State.emit_status (s : State) (c : Symbol) :
    (s.emit c).status = s.status := rfl

@[simp] theorem State.emit_ctrl (s : State) (c : Symbol) :
    (s.emit c).ctrl = s.ctrl := rfl

@[simp] theorem State.emit_qdrop (s : State) (c : Symbol) :
    (s.emit c).qdrop = s.qdrop := rfl

@[simp] theorem State.emit_bpf (s : State) (c : Symbol) :
    (s.emit c).bpf = s.bpf := rfl

@[simp] theorem State.emit_lpf (s : State) (c : Symbol) :
    (s.emit c).lpf = s.lpf := rfl

@[simp] theorem State.emit_norm (s : State) (c : Symbol) :
    (s.emit c).norm = s.norm := rfl

@[simp] theorem State.emit_trk (s : State) (c : Symbol) :
    (s.emit c).trk = s.trk := rfl

@[simp] theorem State.emit_edgeCount (s : State) (c : Symbol) :
    (s.emit c).edgeCount = s.edgeCount := rfl

@[simp] theorem State.emit_hist (s : State) (c : Symbol) :
    (s.emit c).hist = s.hist := rfl

@[simp] theorem State.emit_queue (s : State) (c : Symbol) :
    (s.emit c).queue = s.queue := rfl

@[simp] theorem State.emit_aud (s : State) (c : Symbol) :
    (s.emit c).aud = s.aud := rfl

@[simp] theorem State.emit_input (s : State) (c : Symbol) :
    (s.emit c).input = s.input := rfl

@[simp] theorem State.emit_rsp (s : State) (c : Symbol) :
    (s.emit c).rsp = s.rsp := rfl

@[simp] theorem State.emit_sym (s : State) (c : Symbol) :
    (s.emit c).sym = s.sym ++ [c] := rfl

@[simp] theorem State.emit_audOut (s : State) (c : Symbol) :
    (s.emit c).audOut = s.audOut := rfl

/-! ### `State.fltStep` -/

@[simp] theorem State.fltStep_status (s : State) (pcm : Half) :
    (s.fltStep pcm).status = s.status.recordClip (s.chainClips pcm) := rfl

@[simp] theorem State.fltStep_ctrl (s : State) (pcm : Half) :
    (s.fltStep pcm).ctrl = s.ctrl := rfl

@[simp] theorem State.fltStep_qdrop (s : State) (pcm : Half) :
    (s.fltStep pcm).qdrop = s.qdrop := rfl

@[simp] theorem State.fltStep_bpf (s : State) (pcm : Half) :
    (s.fltStep pcm).bpf = s.bpf.advance (pcmWord pcm) := rfl

@[simp] theorem State.fltStep_lpf (s : State) (pcm : Half) :
    (s.fltStep pcm).lpf = s.lpf.advance (rectify (s.bandOut pcm)) := rfl

@[simp] theorem State.fltStep_norm (s : State) (pcm : Half) :
    (s.fltStep pcm).norm = s.norm := rfl

@[simp] theorem State.fltStep_trk (s : State) (pcm : Half) :
    (s.fltStep pcm).trk = s.trk := rfl

@[simp] theorem State.fltStep_edgeCount (s : State) (pcm : Half) :
    (s.fltStep pcm).edgeCount = s.edgeCount := rfl

@[simp] theorem State.fltStep_hist (s : State) (pcm : Half) :
    (s.fltStep pcm).hist = s.hist := rfl

@[simp] theorem State.fltStep_queue (s : State) (pcm : Half) :
    (s.fltStep pcm).queue = s.queue := rfl

@[simp] theorem State.fltStep_aud (s : State) (pcm : Half) :
    (s.fltStep pcm).aud = s.aud := rfl

@[simp] theorem State.fltStep_input (s : State) (pcm : Half) :
    (s.fltStep pcm).input = s.input := rfl

@[simp] theorem State.fltStep_rsp (s : State) (pcm : Half) :
    (s.fltStep pcm).rsp = s.rsp := rfl

@[simp] theorem State.fltStep_sym (s : State) (pcm : Half) :
    (s.fltStep pcm).sym = s.sym := rfl

@[simp] theorem State.fltStep_audOut (s : State) (pcm : Half) :
    (s.fltStep pcm).audOut = s.audOut := rfl

/-! ### `State.normUpdate` -/

@[simp] theorem State.normUpdate_status (s : State) (es : List Word) :
    (s.normUpdate es).status = s.status.recordClip s.norm.clips := rfl

@[simp] theorem State.normUpdate_ctrl (s : State) (es : List Word) :
    (s.normUpdate es).ctrl = s.ctrl := rfl

@[simp] theorem State.normUpdate_qdrop (s : State) (es : List Word) :
    (s.normUpdate es).qdrop = s.qdrop := rfl

@[simp] theorem State.normUpdate_bpf (s : State) (es : List Word) :
    (s.normUpdate es).bpf = s.bpf := rfl

@[simp] theorem State.normUpdate_lpf (s : State) (es : List Word) :
    (s.normUpdate es).lpf = s.lpf := rfl

@[simp] theorem State.normUpdate_norm (s : State) (es : List Word) :
    (s.normUpdate es).norm = s.norm.update es := rfl

@[simp] theorem State.normUpdate_trk (s : State) (es : List Word) :
    (s.normUpdate es).trk = s.trk := rfl

@[simp] theorem State.normUpdate_edgeCount (s : State) (es : List Word) :
    (s.normUpdate es).edgeCount = s.edgeCount := rfl

@[simp] theorem State.normUpdate_hist (s : State) (es : List Word) :
    (s.normUpdate es).hist = s.hist := rfl

@[simp] theorem State.normUpdate_queue (s : State) (es : List Word) :
    (s.normUpdate es).queue = s.queue := rfl

@[simp] theorem State.normUpdate_aud (s : State) (es : List Word) :
    (s.normUpdate es).aud = s.aud := rfl

@[simp] theorem State.normUpdate_input (s : State) (es : List Word) :
    (s.normUpdate es).input = s.input := rfl

@[simp] theorem State.normUpdate_rsp (s : State) (es : List Word) :
    (s.normUpdate es).rsp = s.rsp := rfl

@[simp] theorem State.normUpdate_sym (s : State) (es : List Word) :
    (s.normUpdate es).sym = s.sym := rfl

@[simp] theorem State.normUpdate_audOut (s : State) (es : List Word) :
    (s.normUpdate es).audOut = s.audOut := rfl

/-! ### `State.trkUpdate` -/

@[simp] theorem State.trkUpdate_status (s : State) (x : Int) :
    (s.trkUpdate x).status = s.status.recordCorrection (s.trk.corrects x) := rfl

@[simp] theorem State.trkUpdate_ctrl (s : State) (x : Int) :
    (s.trkUpdate x).ctrl = s.ctrl := rfl

@[simp] theorem State.trkUpdate_qdrop (s : State) (x : Int) :
    (s.trkUpdate x).qdrop = s.qdrop := rfl

@[simp] theorem State.trkUpdate_bpf (s : State) (x : Int) :
    (s.trkUpdate x).bpf = s.bpf := rfl

@[simp] theorem State.trkUpdate_lpf (s : State) (x : Int) :
    (s.trkUpdate x).lpf = s.lpf := rfl

@[simp] theorem State.trkUpdate_norm (s : State) (x : Int) :
    (s.trkUpdate x).norm = s.norm := rfl

@[simp] theorem State.trkUpdate_trk (s : State) (x : Int) :
    (s.trkUpdate x).trk = s.trk.update x := rfl

@[simp] theorem State.trkUpdate_edgeCount (s : State) (x : Int) :
    (s.trkUpdate x).edgeCount = s.edgeCount := rfl

@[simp] theorem State.trkUpdate_hist (s : State) (x : Int) :
    (s.trkUpdate x).hist = s.hist := rfl

@[simp] theorem State.trkUpdate_queue (s : State) (x : Int) :
    (s.trkUpdate x).queue = s.queue := rfl

@[simp] theorem State.trkUpdate_aud (s : State) (x : Int) :
    (s.trkUpdate x).aud = s.aud := rfl

@[simp] theorem State.trkUpdate_input (s : State) (x : Int) :
    (s.trkUpdate x).input = s.input := rfl

@[simp] theorem State.trkUpdate_rsp (s : State) (x : Int) :
    (s.trkUpdate x).rsp = s.rsp := rfl

@[simp] theorem State.trkUpdate_sym (s : State) (x : Int) :
    (s.trkUpdate x).sym = s.sym := rfl

@[simp] theorem State.trkUpdate_audOut (s : State) (x : Int) :
    (s.trkUpdate x).audOut = s.audOut := rfl

/-! ### `State.takeEvent` -/

@[simp] theorem State.takeEvent_status (s : State) (rest : List Word) :
    (s.takeEvent rest).status = { s.status with idleFlushed := false } := rfl

@[simp] theorem State.takeEvent_ctrl (s : State) (rest : List Word) :
    (s.takeEvent rest).ctrl = s.ctrl := rfl

@[simp] theorem State.takeEvent_qdrop (s : State) (rest : List Word) :
    (s.takeEvent rest).qdrop = s.qdrop := rfl

@[simp] theorem State.takeEvent_bpf (s : State) (rest : List Word) :
    (s.takeEvent rest).bpf = s.bpf := rfl

@[simp] theorem State.takeEvent_lpf (s : State) (rest : List Word) :
    (s.takeEvent rest).lpf = s.lpf := rfl

@[simp] theorem State.takeEvent_norm (s : State) (rest : List Word) :
    (s.takeEvent rest).norm = s.norm := rfl

@[simp] theorem State.takeEvent_trk (s : State) (rest : List Word) :
    (s.takeEvent rest).trk = s.trk := rfl

@[simp] theorem State.takeEvent_edgeCount (s : State) (rest : List Word) :
    (s.takeEvent rest).edgeCount = s.edgeCount := rfl

@[simp] theorem State.takeEvent_hist (s : State) (rest : List Word) :
    (s.takeEvent rest).hist = s.hist := rfl

@[simp] theorem State.takeEvent_queue (s : State) (rest : List Word) :
    (s.takeEvent rest).queue = rest := rfl

@[simp] theorem State.takeEvent_aud (s : State) (rest : List Word) :
    (s.takeEvent rest).aud = s.aud := rfl

@[simp] theorem State.takeEvent_input (s : State) (rest : List Word) :
    (s.takeEvent rest).input = s.input := rfl

@[simp] theorem State.takeEvent_rsp (s : State) (rest : List Word) :
    (s.takeEvent rest).rsp = s.rsp := rfl

@[simp] theorem State.takeEvent_sym (s : State) (rest : List Word) :
    (s.takeEvent rest).sym = s.sym := rfl

@[simp] theorem State.takeEvent_audOut (s : State) (rest : List Word) :
    (s.takeEvent rest).audOut = s.audOut := rfl

/-! ### `State.dropTrkReady` -/

@[simp] theorem State.dropTrkReady_status (s : State) :
    (s.dropTrkReady).status = { s.status with trkReady := false } := rfl

@[simp] theorem State.dropTrkReady_ctrl (s : State) :
    (s.dropTrkReady).ctrl = s.ctrl := rfl

@[simp] theorem State.dropTrkReady_qdrop (s : State) :
    (s.dropTrkReady).qdrop = s.qdrop := rfl

@[simp] theorem State.dropTrkReady_bpf (s : State) :
    (s.dropTrkReady).bpf = s.bpf := rfl

@[simp] theorem State.dropTrkReady_lpf (s : State) :
    (s.dropTrkReady).lpf = s.lpf := rfl

@[simp] theorem State.dropTrkReady_norm (s : State) :
    (s.dropTrkReady).norm = s.norm := rfl

@[simp] theorem State.dropTrkReady_trk (s : State) :
    (s.dropTrkReady).trk = s.trk := rfl

@[simp] theorem State.dropTrkReady_edgeCount (s : State) :
    (s.dropTrkReady).edgeCount = s.edgeCount := rfl

@[simp] theorem State.dropTrkReady_hist (s : State) :
    (s.dropTrkReady).hist = s.hist := rfl

@[simp] theorem State.dropTrkReady_queue (s : State) :
    (s.dropTrkReady).queue = s.queue := rfl

@[simp] theorem State.dropTrkReady_aud (s : State) :
    (s.dropTrkReady).aud = s.aud := rfl

@[simp] theorem State.dropTrkReady_input (s : State) :
    (s.dropTrkReady).input = s.input := rfl

@[simp] theorem State.dropTrkReady_rsp (s : State) :
    (s.dropTrkReady).rsp = s.rsp := rfl

@[simp] theorem State.dropTrkReady_sym (s : State) :
    (s.dropTrkReady).sym = s.sym := rfl

@[simp] theorem State.dropTrkReady_audOut (s : State) :
    (s.dropTrkReady).audOut = s.audOut := rfl

/-! ### `State.dropHistReady` -/

@[simp] theorem State.dropHistReady_status (s : State) :
    (s.dropHistReady).status = { s.status with histReady := false } := rfl

@[simp] theorem State.dropHistReady_ctrl (s : State) :
    (s.dropHistReady).ctrl = s.ctrl := rfl

@[simp] theorem State.dropHistReady_qdrop (s : State) :
    (s.dropHistReady).qdrop = s.qdrop := rfl

@[simp] theorem State.dropHistReady_bpf (s : State) :
    (s.dropHistReady).bpf = s.bpf := rfl

@[simp] theorem State.dropHistReady_lpf (s : State) :
    (s.dropHistReady).lpf = s.lpf := rfl

@[simp] theorem State.dropHistReady_norm (s : State) :
    (s.dropHistReady).norm = s.norm := rfl

@[simp] theorem State.dropHistReady_trk (s : State) :
    (s.dropHistReady).trk = s.trk := rfl

@[simp] theorem State.dropHistReady_edgeCount (s : State) :
    (s.dropHistReady).edgeCount = s.edgeCount := rfl

@[simp] theorem State.dropHistReady_hist (s : State) :
    (s.dropHistReady).hist = s.hist := rfl

@[simp] theorem State.dropHistReady_queue (s : State) :
    (s.dropHistReady).queue = s.queue := rfl

@[simp] theorem State.dropHistReady_aud (s : State) :
    (s.dropHistReady).aud = s.aud := rfl

@[simp] theorem State.dropHistReady_input (s : State) :
    (s.dropHistReady).input = s.input := rfl

@[simp] theorem State.dropHistReady_rsp (s : State) :
    (s.dropHistReady).rsp = s.rsp := rfl

@[simp] theorem State.dropHistReady_sym (s : State) :
    (s.dropHistReady).sym = s.sym := rfl

@[simp] theorem State.dropHistReady_audOut (s : State) :
    (s.dropHistReady).audOut = s.audOut := rfl

/-! ### `State.withCommand` -/

@[simp] theorem State.withCommand_status (s : State) (w : CmdWord) :
    (s.withCommand w).status = s.status := rfl

@[simp] theorem State.withCommand_ctrl (s : State) (w : CmdWord) :
    (s.withCommand w).ctrl = s.ctrl := rfl

@[simp] theorem State.withCommand_qdrop (s : State) (w : CmdWord) :
    (s.withCommand w).qdrop = s.qdrop := rfl

@[simp] theorem State.withCommand_bpf (s : State) (w : CmdWord) :
    (s.withCommand w).bpf = s.bpf := rfl

@[simp] theorem State.withCommand_lpf (s : State) (w : CmdWord) :
    (s.withCommand w).lpf = s.lpf := rfl

@[simp] theorem State.withCommand_norm (s : State) (w : CmdWord) :
    (s.withCommand w).norm = s.norm := rfl

@[simp] theorem State.withCommand_trk (s : State) (w : CmdWord) :
    (s.withCommand w).trk = s.trk := rfl

@[simp] theorem State.withCommand_edgeCount (s : State) (w : CmdWord) :
    (s.withCommand w).edgeCount = s.edgeCount := rfl

@[simp] theorem State.withCommand_hist (s : State) (w : CmdWord) :
    (s.withCommand w).hist = s.hist := rfl

@[simp] theorem State.withCommand_queue (s : State) (w : CmdWord) :
    (s.withCommand w).queue = s.queue := rfl

@[simp] theorem State.withCommand_aud (s : State) (w : CmdWord) :
    (s.withCommand w).aud = s.aud := rfl

@[simp] theorem State.withCommand_input (s : State) (w : CmdWord) :
    (s.withCommand w).input = .command w :: s.input := rfl

@[simp] theorem State.withCommand_rsp (s : State) (w : CmdWord) :
    (s.withCommand w).rsp = s.rsp := rfl

@[simp] theorem State.withCommand_sym (s : State) (w : CmdWord) :
    (s.withCommand w).sym = s.sym := rfl

@[simp] theorem State.withCommand_audOut (s : State) (w : CmdWord) :
    (s.withCommand w).audOut = s.audOut := rfl

/-! ### `Status.recordClip` -/

@[simp] theorem Status.recordClip_trkReady (st : Status) (b : Bool) :
    (st.recordClip b).trkReady = st.trkReady := rfl

@[simp] theorem Status.recordClip_histReady (st : Status) (b : Bool) :
    (st.recordClip b).histReady = st.histReady := rfl

@[simp] theorem Status.recordClip_edgeValid (st : Status) (b : Bool) :
    (st.recordClip b).edgeValid = st.edgeValid := rfl

@[simp] theorem Status.recordClip_below (st : Status) (b : Bool) :
    (st.recordClip b).below = st.below := rfl

@[simp] theorem Status.recordClip_idleFlushed (st : Status) (b : Bool) :
    (st.recordClip b).idleFlushed = st.idleFlushed := rfl

@[simp] theorem Status.recordClip_qovf (st : Status) (b : Bool) :
    (st.recordClip b).qovf = st.qovf := rfl

@[simp] theorem Status.recordClip_corr (st : Status) (b : Bool) :
    (st.recordClip b).corr = st.corr := rfl

@[simp] theorem Status.recordClip_err (st : Status) (b : Bool) :
    (st.recordClip b).err = st.err := rfl

@[simp] theorem Status.recordClip_illcmd (st : Status) (b : Bool) :
    (st.recordClip b).illcmd = st.illcmd := rfl

@[simp] theorem Status.recordClip_fsat (st : Status) (b : Bool) :
    (st.recordClip b).fsat = (st.fsat || b) := rfl

/-! ### `Status.recordCorrection` -/

@[simp] theorem Status.recordCorrection_trkReady (st : Status) (b : Bool) :
    (st.recordCorrection b).trkReady = st.trkReady := rfl

@[simp] theorem Status.recordCorrection_histReady (st : Status) (b : Bool) :
    (st.recordCorrection b).histReady = st.histReady := rfl

@[simp] theorem Status.recordCorrection_edgeValid (st : Status) (b : Bool) :
    (st.recordCorrection b).edgeValid = st.edgeValid := rfl

@[simp] theorem Status.recordCorrection_below (st : Status) (b : Bool) :
    (st.recordCorrection b).below = st.below := rfl

@[simp] theorem Status.recordCorrection_idleFlushed (st : Status) (b : Bool) :
    (st.recordCorrection b).idleFlushed = st.idleFlushed := rfl

@[simp] theorem Status.recordCorrection_qovf (st : Status) (b : Bool) :
    (st.recordCorrection b).qovf = st.qovf := rfl

@[simp] theorem Status.recordCorrection_corr (st : Status) (b : Bool) :
    (st.recordCorrection b).corr = (st.corr || b) := rfl

@[simp] theorem Status.recordCorrection_err (st : Status) (b : Bool) :
    (st.recordCorrection b).err = st.err := rfl

@[simp] theorem Status.recordCorrection_illcmd (st : Status) (b : Bool) :
    (st.recordCorrection b).illcmd = st.illcmd := rfl

@[simp] theorem Status.recordCorrection_fsat (st : Status) (b : Bool) :
    (st.recordCorrection b).fsat = st.fsat := rfl

/-! ### `Status.clearSticky` -/

@[simp] theorem Status.clearSticky_trkReady (st : Status) (v : Word) :
    (st.clearSticky v).trkReady = st.trkReady := rfl

@[simp] theorem Status.clearSticky_histReady (st : Status) (v : Word) :
    (st.clearSticky v).histReady = st.histReady := rfl

@[simp] theorem Status.clearSticky_edgeValid (st : Status) (v : Word) :
    (st.clearSticky v).edgeValid = st.edgeValid := rfl

@[simp] theorem Status.clearSticky_below (st : Status) (v : Word) :
    (st.clearSticky v).below = st.below := rfl

@[simp] theorem Status.clearSticky_idleFlushed (st : Status) (v : Word) :
    (st.clearSticky v).idleFlushed = st.idleFlushed := rfl

@[simp] theorem Status.clearSticky_qovf (st : Status) (v : Word) :
    (st.clearSticky v).qovf = (st.qovf && !v.getLsbD 8) := rfl

@[simp] theorem Status.clearSticky_corr (st : Status) (v : Word) :
    (st.clearSticky v).corr = (st.corr && !v.getLsbD 9) := rfl

@[simp] theorem Status.clearSticky_err (st : Status) (v : Word) :
    (st.clearSticky v).err = (st.err && !v.getLsbD 10) := rfl

@[simp] theorem Status.clearSticky_illcmd (st : Status) (v : Word) :
    (st.clearSticky v).illcmd = (st.illcmd && !v.getLsbD 11) := rfl

@[simp] theorem Status.clearSticky_fsat (st : Status) (v : Word) :
    (st.clearSticky v).fsat = (st.fsat && !v.getLsbD 12) := rfl

/-! ### `Biquad.advance` -/

@[simp] theorem Biquad.advance_b0 (f : Biquad) (x : Word) :
    (f.advance x).b0 = f.b0 := rfl

@[simp] theorem Biquad.advance_b1 (f : Biquad) (x : Word) :
    (f.advance x).b1 = f.b1 := rfl

@[simp] theorem Biquad.advance_b2 (f : Biquad) (x : Word) :
    (f.advance x).b2 = f.b2 := rfl

@[simp] theorem Biquad.advance_a1 (f : Biquad) (x : Word) :
    (f.advance x).a1 = f.a1 := rfl

@[simp] theorem Biquad.advance_a2 (f : Biquad) (x : Word) :
    (f.advance x).a2 = f.a2 := rfl

@[simp] theorem Biquad.advance_x1 (f : Biquad) (x : Word) :
    (f.advance x).x1 = x := rfl

@[simp] theorem Biquad.advance_x2 (f : Biquad) (x : Word) :
    (f.advance x).x2 = f.x1 := rfl

@[simp] theorem Biquad.advance_y1 (f : Biquad) (x : Word) :
    (f.advance x).y1 = f.out x := rfl

@[simp] theorem Biquad.advance_y2 (f : Biquad) (x : Word) :
    (f.advance x).y2 = f.y1 := rfl

/-! ### `Histogram.decayAll` -/

@[simp] theorem Histogram.decayAll_minVal (h : Histogram) :
    (h.decayAll).minVal = h.minVal := rfl

@[simp] theorem Histogram.decayAll_maxVal (h : Histogram) :
    (h.decayAll).maxVal = h.maxVal := rfl

@[simp] theorem Histogram.decayAll_nbins (h : Histogram) :
    (h.decayAll).nbins = h.nbins := rfl

@[simp] theorem Histogram.decayAll_spread (h : Histogram) :
    (h.decayAll).spread = h.spread := rfl

@[simp] theorem Histogram.decayAll_decay (h : Histogram) :
    (h.decayAll).decay = h.decay := rfl

@[simp] theorem Histogram.decayAll_bins (h : Histogram) :
    (h.decayAll).bins = (h.bins.take h.nbins.toNat).map (decayBin h.decay) ++ h.bins.drop h.nbins.toNat := rfl

@[simp] theorem Histogram.decayAll_tCur (h : Histogram) :
    (h.decayAll).tCur = h.tCur := rfl

/-! ### `Histogram.count` -/

@[simp] theorem Histogram.count_minVal (h : Histogram) (i : Nat) :
    (h.count i).minVal = h.minVal := rfl

@[simp] theorem Histogram.count_maxVal (h : Histogram) (i : Nat) :
    (h.count i).maxVal = h.maxVal := rfl

@[simp] theorem Histogram.count_nbins (h : Histogram) (i : Nat) :
    (h.count i).nbins = h.nbins := rfl

@[simp] theorem Histogram.count_spread (h : Histogram) (i : Nat) :
    (h.count i).spread = h.spread := rfl

@[simp] theorem Histogram.count_decay (h : Histogram) (i : Nat) :
    (h.count i).decay = h.decay := rfl

@[simp] theorem Histogram.count_bins (h : Histogram) (i : Nat) :
    (h.count i).bins = h.bins.set i (toRegU (satu32 ((h.bin i).toNat + Config.binOne))) := rfl

@[simp] theorem Histogram.count_tCur (h : Histogram) (i : Nat) :
    (h.count i).tCur = h.tCur := rfl

/-! ### `Histogram.cleared` -/

@[simp] theorem Histogram.cleared_minVal (h : Histogram) :
    (h.cleared).minVal = h.minVal := rfl

@[simp] theorem Histogram.cleared_maxVal (h : Histogram) :
    (h.cleared).maxVal = h.maxVal := rfl

@[simp] theorem Histogram.cleared_nbins (h : Histogram) :
    (h.cleared).nbins = h.nbins := rfl

@[simp] theorem Histogram.cleared_spread (h : Histogram) :
    (h.cleared).spread = h.spread := rfl

@[simp] theorem Histogram.cleared_decay (h : Histogram) :
    (h.cleared).decay = h.decay := rfl

@[simp] theorem Histogram.cleared_bins (h : Histogram) :
    (h.cleared).bins = List.replicate Config.nbinsMax 0#32 := by simp only [Histogram.cleared]

@[simp] theorem Histogram.cleared_tCur (h : Histogram) :
    (h.cleared).tCur = h.tCur := rfl

@[simp] theorem Status.recordFailure_ok (st : Status) :
    st.recordFailure .ok = st := rfl

@[simp] theorem Status.recordFailure_empty (st : Status) :
    st.recordFailure .empty = st := rfl

@[simp] theorem Status.recordFailure_qfull (st : Status) :
    st.recordFailure .qfull = st := rfl

@[simp] theorem Status.recordFailure_invalidArg (st : Status) :
    st.recordFailure .invalidArg = { st with err := true } := rfl

@[simp] theorem Status.recordFailure_notInit (st : Status) :
    st.recordFailure .notInit = { st with err := true } := rfl

@[simp] theorem Status.recordFailure_badReg (st : Status) :
    st.recordFailure .badReg = { st with err := true } := rfl

@[simp] theorem Status.recordFailure_addrErr (st : Status) :
    st.recordFailure .addrErr = { st with err := true } := rfl

@[simp] theorem Status.recordFailure_notIdle (st : Status) :
    st.recordFailure .notIdle = { st with err := true } := rfl

@[simp] theorem Status.recordFailure_illegalCmd (st : Status) :
    st.recordFailure .illegalCmd = { st with illcmd := true } := rfl

end Sys2Proof.Machine
end

