-- ==== Sys2Proof/Laws/Histo.lean ====
section
/-! SUPPORT. The peak search and the bins: what each operation can do, said once. -/

namespace Sys2Proof.Machine

/-- The search answers nothing only where no index is accepted. -/
theorem firstMax_none {accept : Nat → Bool} : ∀ {bs : List Word} {k : Nat}, firstMax accept k bs = none →
    ∀ m, m < bs.length → accept (k + m) = false
  | [], _, _, m, hm => by simp at hm
  | b :: rest, k, h, m, hm => by
    unfold firstMax at h
    split at h
    · rename_i hn
      split at h
      · cases h
      · cases m with
        | zero => simp_all
        | succ m =>
          have := firstMax_none hn m (by simpa using hm)
          rwa [show k + 1 + m = k + (m + 1) by omega] at this
    · split at h <;> cases h

/-- All the search can answer: an accepted index with the largest cell among the accepted ones, the smallest such. -/
theorem firstMax_some {accept : Nat → Bool} : ∀ {bs : List Word} {k i v : Nat}, firstMax accept k bs = some (i, v) →
    ∃ j, i = k + j ∧ (∃ h : j < bs.length, v = bs[j].toNat) ∧ accept i = true
      ∧ (∀ m (h : m < bs.length), accept (k + m) = true → bs[m].toNat ≤ v)
      ∧ (∀ m (h : m < bs.length), m < j → accept (k + m) = true → bs[m].toNat < v)
  | [], _, _, _, h => by simp [firstMax] at h
  | b :: rest, k, i, v, h => by
    unfold firstMax at h
    split at h
    · rename_i hn
      split at h
      · rename_i ha
        cases h
        refine ⟨0, rfl, ⟨by simp, rfl⟩, ha, ?_, fun m _ hm => absurd hm (by omega)⟩
        intro m hm hacc
        cases m with
        | zero => exact le_refl _
        | succ m =>
          have := firstMax_none hn m (by simpa using hm)
          rw [show k + 1 + m = k + (m + 1) by omega, hacc] at this
          cases this
      · cases h
    · rename_i j0 v0 hs
      obtain ⟨j, rfl, ⟨hj, rfl⟩, hacc, hmax, hfirst⟩ := firstMax_some hs
      split at h
      · rename_i hc
        cases h
        simp only [Bool.and_eq_true, decide_eq_true_eq] at hc
        refine ⟨0, rfl, ⟨by simp, rfl⟩, hc.1, ?_, fun m _ hm => absurd hm (by omega)⟩
        intro m hm ha
        cases m with
        | zero => exact le_refl _
        | succ m =>
          have := hmax m (by simpa using hm) (by rwa [show k + 1 + m = k + (m + 1) by omega])
          simp only [List.getElem_cons_succ]
          omega
      · rename_i hc
        cases h
        simp only [Bool.and_eq_true, decide_eq_true_eq, not_and, not_le] at hc
        refine ⟨j + 1, by omega, ⟨by simpa using hj, by simp⟩, hacc, ?_, ?_⟩
        · intro m hm ha
          cases m with
          | zero => exact le_of_lt (hc ha)
          | succ m =>
            exact hmax m (by simpa using hm) (by rwa [show k + 1 + m = k + (m + 1) by omega])
        · intro m hm hlt ha
          cases m with
          | zero => exact hc ha
          | succ m =>
            exact hfirst m (by simpa using hm) (by omega) (by rwa [show k + 1 + m = k + (m + 1) by omega])

/-- A decayed bin as a number, for a legal decay factor (R262). -/
theorem decayBin_toNat {alpha b : Word} (h : alpha.toNat ≤ 65536) :
    (decayBin alpha b).toNat = b.toNat * alpha.toNat / 65536 := by
  have hb := b.isLt
  have hle : b.toNat * alpha.toNat ≤ b.toNat * 65536 := Nat.mul_le_mul_left _ h
  have hdiv : b.toNat * alpha.toNat / 2 ^ 16 ≤ b.toNat := Nat.div_le_of_le_mul (by omega)
  exact toRegU_toNat (by omega)

theorem Histogram.decayAll_length (h : Histogram) : h.decayAll.bins.length = h.bins.length := by
  simp only [Histogram.decayAll_bins, List.length_append, List.length_map, List.length_take, List.length_drop]
  omega

theorem Histogram.count_length (h : Histogram) (i : Nat) : (h.count i).bins.length = h.bins.length := by
  simp

/-- A decay step on one cell: the used bins decay, the others stay (R262). -/
theorem Histogram.bin_decayAll (h : Histogram) (i : Nat) :
    h.decayAll.bin i = if i < h.nbins.toNat then decayBin h.decay (h.bin i) else h.bin i := by
  have hz : decayBin h.decay 0#32 = 0#32 := by simp [decayBin, toRegU]
  simp only [Histogram.bin, Histogram.decayAll_bins, List.getD_eq_getElem?_getD, List.getElem?_append,
    List.length_map, List.length_take, List.getElem?_map, List.getElem?_take, List.getElem?_drop]
  by_cases h1 : i < h.nbins.toNat
  · by_cases h2 : i < h.bins.length
    · simp [h1, h2]
    · simp only [show ¬ i < min h.nbins.toNat h.bins.length by omega, if_false, h1, if_true,
        List.getElem?_eq_none (show h.bins.length ≤ i by omega), Option.getD_none, hz]
      rw [List.getElem?_eq_none (by omega)]
      rfl
  · by_cases h2 : i < h.bins.length
    · simp only [if_false, h1,
        show min h.nbins.toNat h.bins.length = h.nbins.toNat by omega,
        show h.nbins.toNat + (i - h.nbins.toNat) = i by omega]
    · simp only [show ¬ i < min h.nbins.toNat h.bins.length by omega, if_false, h1]
      rw [List.getElem?_eq_none (by omega), List.getElem?_eq_none (by omega)]

/-- A counted sample in one cell (R266). -/
theorem Histogram.bin_count (h : Histogram) {i : Nat} (hi : i < h.bins.length) (j : Nat) :
    (h.count i).bin j = if j = i then toRegU (satu32 ((h.bin i).toNat + 65536)) else h.bin j := by
  simp only [Histogram.bin, Histogram.count_bins, List.getD_eq_getElem?_getD, List.getElem?_set]
  by_cases h1 : j = i
  · subst h1
    simp [hi, Config.binOne]
  · have : ¬ i = j := fun e => h1 e.symm
    simp [h1, this]

/-- All the index computation can answer (R263). -/
theorem Histogram.index_cases (h : Histogram) (d : Nat) :
    ((d < h.minVal.toNat ∨ d > h.maxVal.toNat) ∧ h.index d = none)
      ∨ (h.minVal.toNat ≤ d ∧ d ≤ h.maxVal.toNat ∧ h.index d =
          some (min ((d - h.minVal.toNat) * h.nbins.toNat / (h.maxVal.toNat - h.minVal.toNat)) (h.nbins.toNat - 1))) := by
  unfold Histogram.index
  split
  · exact .inl ⟨by assumption, rfl⟩
  · exact .inr ⟨by omega, by omega, rfl⟩

/-- All `hist_add` can do: decay, then count where the duration is in range (R266). -/
theorem Histogram.add_cases (h : Histogram) (d : Nat) :
    (h.index d = none ∧ h.add d = h.decayAll) ∨ (∃ i, h.index d = some i ∧ h.add d = h.decayAll.count i) := by
  unfold Histogram.add
  cases hi : h.index d with
  | none => exact .inl ⟨rfl, rfl⟩
  | some i => exact .inr ⟨i, rfl, rfl⟩

end Sys2Proof.Machine
end

