-- ==== Sys2Proof/Laws/Memory.lean ====
section
/-! SUPPORT. AUD: reads after writes, and the canonical form kept by every memory operation. -/

namespace Sys2Proof.Machine

theorem Memory.wfFrom_mono {lo lo' : Nat} (h : lo' ≤ lo) :
    ∀ m : Memory, Memory.wfFrom lo m = true → Memory.wfFrom lo' m = true
  | [], _ => rfl
  | (a, b) :: rest, hm => by
    simp only [Memory.wfFrom, Bool.and_eq_true, decide_eq_true_eq] at hm ⊢
    exact ⟨⟨by omega, hm.1.2⟩, hm.2⟩

/-- Below the lower bound of a canonical memory every byte reads as an unlisted one. -/
theorem Memory.get_below {addr : Nat} : ∀ (m : Memory) (lo : Nat), addr < lo → Memory.wfFrom lo m = true →
    Memory.get m addr = Config.audUnlisted
  | [], _, _, _ => rfl
  | (a, b) :: rest, lo, h, hm => by
    simp only [Memory.wfFrom, Bool.and_eq_true, decide_eq_true_eq] at hm
    have hne : addr ≠ a := by omega
    simp only [Memory.get, hne, if_false]
    exact Memory.get_below rest (a + 1) (by omega) hm.2

/-- A write leaves every other address alone. -/
theorem Memory.get_set_other {addr a' : Nat} (v : Byte) (h : a' ≠ addr) :
    ∀ m : Memory, Memory.get (Memory.set m addr v) a' = Memory.get m a'
  | [] => by
    unfold Memory.set
    split <;> simp [Memory.get, h]
  | (a, b) :: rest => by
    unfold Memory.set
    split
    · split <;> simp [Memory.get, h]
    · split
      · split
        · subst_vars; simp [Memory.get, h]
        · subst_vars; simp [Memory.get, h]
      · simp only [Memory.get, Memory.get_set_other v h rest]

theorem Memory.get_set_same_from (addr : Nat) (v : Byte) :
    ∀ (m : Memory) (lo : Nat), Memory.wfFrom lo m = true → Memory.get (Memory.set m addr v) addr = v
  | [], _, _ => by
    unfold Memory.set
    split <;> simp_all [Memory.get]
  | (a, b) :: rest, lo, hm => by
    have hm' := hm
    simp only [Memory.wfFrom, Bool.and_eq_true, decide_eq_true_eq] at hm'
    unfold Memory.set
    split
    · rename_i hlt
      split
      · rename_i hv
        have hne : addr ≠ a := by omega
        simp only [Memory.get, hne, if_false]
        rw [hv]
        exact Memory.get_below rest (a + 1) (by omega) hm'.2
      · simp [Memory.get]
    · split
      · split
        · rename_i hv
          rw [hv]
          exact Memory.get_below rest (a + 1) (by omega) hm'.2
        · simp [Memory.get]
      · rename_i hne
        simp only [Memory.get, hne, if_false]
        exact Memory.get_set_same_from addr v rest (a + 1) hm'.2

/-- A read after a write to the same address gives the byte written. -/
theorem Memory.get_set_same {m : Memory} (hm : m.wf = true) (addr : Nat) (v : Byte) :
    Memory.get (Memory.set m addr v) addr = v :=
  Memory.get_set_same_from addr v m 0 hm

theorem Memory.wfFrom_set {addr : Nat} (v : Byte) (ha : addr < Config.audBytes) :
    ∀ (m : Memory) (lo : Nat), lo ≤ addr → Memory.wfFrom lo m = true → Memory.wfFrom lo (Memory.set m addr v) = true
  | [], lo, hl, _ => by
    unfold Memory.set
    split
    · rfl
    · simp_all [Memory.wfFrom]
  | (a, b) :: rest, lo, hl, hm => by
    have hm' := hm
    simp only [Memory.wfFrom, Bool.and_eq_true, decide_eq_true_eq] at hm'
    unfold Memory.set
    split
    · split
      · exact hm
      · simp only [Memory.wfFrom, Bool.and_eq_true, decide_eq_true_eq]
        exact ⟨⟨hl, ha, by assumption⟩, ⟨by omega, hm'.1.2⟩, hm'.2⟩
    · split
      · split
        · exact Memory.wfFrom_mono (by omega) rest hm'.2
        · simp only [Memory.wfFrom, Bool.and_eq_true, decide_eq_true_eq]
          exact ⟨⟨hl, ha, by assumption⟩, by subst_vars; exact hm'.2⟩
      · simp only [Memory.wfFrom, Bool.and_eq_true, decide_eq_true_eq]
        exact ⟨hm'.1, Memory.wfFrom_set v ha rest (a + 1) (by omega) hm'.2⟩

/-- A write inside AUD keeps the canonical form. -/
theorem Memory.wf_set {m : Memory} (hm : m.wf = true) {addr : Nat} (v : Byte) (ha : addr < Config.audBytes) :
    (Memory.set m addr v).wf = true :=
  Memory.wfFrom_set v ha m 0 (Nat.zero_le _) hm

theorem Memory.wf_foldl : ∀ (cells : List Host.Cell) (m : Memory), m.wf = true →
    Memory.wf (cells.foldl (fun m c => if c.1 < Config.audBytes then Memory.set m c.1 c.2 else m) m) = true
  | [], _, hm => hm
  | c :: rest, m, hm => by
    simp only [List.foldl_cons]
    apply Memory.wf_foldl rest
    split
    · exact Memory.wf_set hm _ (by assumption)
    · exact hm

/-- The contents a reset finds are in the canonical form. -/
theorem Memory.wf_ofCells (cells : List Host.Cell) : (Memory.ofCells cells).wf = true :=
  Memory.wf_foldl cells [] rfl

theorem reset_aud_wf : State.reset.aud.wf = true := rfl

theorem hostWrite_aud_wf {s : State} (hm : s.aud.wf = true) (half : BitVec 11) (v : Half) :
    (hostWrite half v s).aud.wf = true := by
  have h := half.isLt
  exact Memory.wf_set (Memory.wf_set hm _ (by simp only [Config.audBytes]; omega)) _
    (by simp only [Config.audBytes]; omega)

/-- Inside AUD a halfword read answers its two bytes, little-endian; outside it answers none. -/
theorem Memory.readHalf_eq (m : Memory) (addr : Nat) :
    Memory.readHalf m addr =
      if addr + 1 < 4096 then some (Memory.get m (addr + 1) ++ Memory.get m addr) else none := rfl

theorem Memory.writeHalf_wf {m m' : Memory} (hm : m.wf = true) {addr : Nat} {v : Half}
    (h : Memory.writeHalf m addr v = some m') : m'.wf = true := by
  unfold Memory.writeHalf at h
  split at h
  · cases h
    exact Memory.wf_set (Memory.wf_set hm _ (by omega)) _ (by assumption)
  · cases h

/-- All a halfword write can do: the two bytes hold the value, every other byte is as before. -/
theorem Memory.writeHalf_get {m m' : Memory} (hm : m.wf = true) {addr : Nat} {v : Half}
    (h : Memory.writeHalf m addr v = some m') (a : Nat) :
    Memory.get m' a =
      if a = addr then v.extractLsb' 0 8 else if a = addr + 1 then v.extractLsb' 8 8 else Memory.get m a := by
  unfold Memory.writeHalf at h
  split at h
  · cases h
    have hm1 := Memory.wf_set hm (addr := addr) (v.extractLsb' 0 8) (by omega)
    by_cases h1 : a = addr + 1
    · subst h1
      simp [Memory.get_set_same hm1]
    · rw [Memory.get_set_other _ h1]
      by_cases h2 : a = addr
      · subst h2
        simp [Memory.get_set_same hm]
      · simp [h1, h2, Memory.get_set_other _ h2]
  · cases h

/-- A block of frames inside AUD is always read, and holds the halfword of each frame. -/
theorem readFrames_eq (m : Memory) : ∀ (k addr : Nat), addr + 4 * k ≤ 4098 →
    readFrames m addr k =
      some ((List.range k).map fun i => Memory.get m (addr + 4 * i + 1) ++ Memory.get m (addr + 4 * i))
  | 0, _, _ => rfl
  | k + 1, addr, h => by
    have h1 : addr + 1 < 4096 := by omega
    simp only [readFrames, Memory.readHalf_eq, h1, if_true, readFrames_eq m k (addr + 4) (by omega)]
    simp only [List.range_succ_eq_map, List.map_cons, List.map_map, Option.some.injEq, List.cons.injEq]
    refine ⟨by simp, List.map_congr_left fun i _ => ?_⟩
    have e : addr + 4 + 4 * i = addr + 4 * Nat.succ i := by omega
    simp only [Function.comp, e]

/-- A debug copy inside AUD is always written, keeps the canonical form, and is all that changes. -/
theorem writeFrames_spec : ∀ (ds : List Half) (m : Memory) (addr : Nat), m.wf = true → addr + 4 * ds.length ≤ 4096 →
    ∃ m', writeFrames m addr ds = some m' ∧ m'.wf = true
      ∧ (∀ a, a < addr ∨ addr + 4 * ds.length ≤ a → Memory.get m' a = Memory.get m a)
      ∧ (∀ i (h : i < ds.length) k, k < 4 →
          Memory.get m' (addr + 4 * i + k) = if k % 2 = 0 then ds[i].extractLsb' 0 8 else ds[i].extractLsb' 8 8)
  | [], m, addr, hm, _ => ⟨m, rfl, hm, fun _ _ => rfl, fun i h => absurd h (by simp)⟩
  | d :: ds, m, addr, hm, hlen => by
    simp only [List.length_cons] at hlen
    obtain ⟨m1, e1⟩ : ∃ m1, Memory.writeHalf m addr d = some m1 := by
      simp only [Memory.writeHalf, show addr + 1 < Config.audBytes by simp only [Config.audBytes]; omega, if_true]
      exact ⟨_, rfl⟩
    have hm1 := Memory.writeHalf_wf hm e1
    obtain ⟨m2, e2⟩ : ∃ m2, Memory.writeHalf m1 (addr + 2) d = some m2 := by
      simp only [Memory.writeHalf, show addr + 2 + 1 < Config.audBytes by simp only [Config.audBytes]; omega, if_true]
      exact ⟨_, rfl⟩
    have hm2 := Memory.writeHalf_wf hm1 e2
    obtain ⟨m', e3, hw, hout, hin⟩ := writeFrames_spec ds m2 (addr + 4) hm2 (by omega)
    have g1 := Memory.writeHalf_get hm e1
    have g2 := Memory.writeHalf_get hm1 e2
    refine ⟨m', by simp only [writeFrames, e1, e2, e3], hw, ?_, ?_⟩
    · intro a ha
      simp only [List.length_cons] at ha
      have n1 : a ≠ addr := by omega
      have n2 : a ≠ addr + 1 := by omega
      have n3 : a ≠ addr + 2 := by omega
      have n4 : a ≠ addr + 2 + 1 := by omega
      rw [hout a (by omega), g2, g1]
      simp only [n1, n2, n3, n4, if_false]
    · intro i hi k hk
      cases i with
      | zero =>
        simp only [List.getElem_cons_zero]
        rw [hout _ (by omega), g2, g1]
        have : k = 0 ∨ k = 1 ∨ k = 2 ∨ k = 3 := by omega
        rcases this with rfl | rfl | rfl | rfl <;> simp [Nat.add_assoc]
      | succ i =>
        simp only [List.getElem_cons_succ]
        have := hin i (by simpa using hi) k hk
        rw [← this]
        congr 1
        omega

end Sys2Proof.Machine
end

