-- ==== Sys2Proof/Laws/Ops.lean ====
section
/-! SUPPORT. What each shared operation can do, said once: response words, failures, the event queue, the register
file, the edge detector, the tracker, the normalizer, the fused step. -/

namespace Sys2Proof.Machine

/-! ## Response words -/

@[simp] theorem rspStatus_responseWord (c : StatusCode) (opc : Byte) (aux : Half) (r : Word) :
    rspStatus (responseWord c opc aux r) = c.code := by
  ext i hi
  simp only [rspStatus, responseWord, BitVec.getElem_extractLsb', BitVec.getLsbD_append]
  simp [show ¬ 56 + i < 32 by omega, show ¬ 56 + i - 32 < 16 by omega, show ¬ 56 + i - 32 - 16 < 8 by omega,
    show 56 + i - 32 - 16 - 8 = i by omega, hi]

@[simp] theorem rspOpc_responseWord (c : StatusCode) (opc : Byte) (aux : Half) (r : Word) :
    rspOpc (responseWord c opc aux r) = opc := by
  ext i hi
  simp only [rspOpc, responseWord, BitVec.getElem_extractLsb', BitVec.getLsbD_append]
  simp [show ¬ 48 + i < 32 by omega, show ¬ 48 + i - 32 < 16 by omega, show 48 + i - 32 - 16 = i by omega, hi]

@[simp] theorem rspAux_responseWord (c : StatusCode) (opc : Byte) (aux : Half) (r : Word) :
    rspAux (responseWord c opc aux r) = aux := by
  ext i hi
  simp only [rspAux, responseWord, BitVec.getElem_extractLsb', BitVec.getLsbD_append]
  simp [show ¬ 32 + i < 32 by omega, hi]

@[simp] theorem rspResult_responseWord (c : StatusCode) (opc : Byte) (aux : Half) (r : Word) :
    rspResult (responseWord c opc aux r) = r := by
  ext i hi
  simp only [rspResult, responseWord, BitVec.getElem_extractLsb', BitVec.getLsbD_append]
  simp [hi]

/-! ## The event queue -/

theorem State.queueFull_iff (s : State) : s.queueFull = true ↔ s.queue.length = 16 := by
  simp [State.queueFull]

/-- All a push can do: with room the event is appended; on a full queue QOVF and QDROP record the drop. -/
theorem State.queuePush_cases (s : State) (ev : Word) :
    (s.queue.length ≠ 16 ∧ s.queuePush ev = { s with queue := s.queue ++ [ev] })
      ∨ (s.queue.length = 16 ∧ s.queuePush ev =
          { s with status := { s.status with qovf := true }, qdrop := toRegU (satu32 (s.qdrop.toNat + 1)) }) := by
  unfold State.queuePush
  split
  · exact .inr ⟨(State.queueFull_iff s).1 (by assumption), rfl⟩
  · exact .inl ⟨fun h => absurd ((State.queueFull_iff s).2 h) (by assumption), rfl⟩

/-! ## The register file -/

/-- All a register write can do outside the registers it may write: nothing. -/
theorem State.writeReg_frame (s : State) (r : Reg) (v : Word) :
    (s.writeReg r v).queue = s.queue ∧ (s.writeReg r v).qdrop = s.qdrop ∧ (s.writeReg r v).edgeCount = s.edgeCount
      ∧ (s.writeReg r v).aud = s.aud ∧ (s.writeReg r v).input = s.input ∧ (s.writeReg r v).rsp = s.rsp
      ∧ (s.writeReg r v).sym = s.sym ∧ (s.writeReg r v).audOut = s.audOut
      ∧ (s.writeReg r v).hist.bins = s.hist.bins ∧ (s.writeReg r v).hist.tCur = s.hist.tCur
      ∧ (s.writeReg r v).trk.tmin = s.trk.tmin ∧ (s.writeReg r v).trk.tmax = s.trk.tmax
      ∧ (s.writeReg r v).norm.smax = s.norm.smax ∧ (s.writeReg r v).norm.smin = s.norm.smin := by
  cases r <;> simp only [State.writeReg, State.dropTrkReady, State.dropHistReady, and_self]

/-- A read-only register's write changes nothing; WRREG never reaches it. -/
theorem State.writeReg_readOnly (s : State) {r : Reg} (h : r.readOnly = true) (v : Word) : s.writeReg r v = s := by
  cases r <;> first | rfl | cases h

/-! ## The edge detector -/

/-- All the edge detector can do to the state (R221, R222). -/
theorem State.edgeUpdate_cases (s : State) (x : Int) :
    (s.status.edgeValid = false ∧ s.edgeUpdate x =
        { s with status := { s.status with below := decide (x ≤ 0), edgeValid := true }, edgeCount := 1#32 })
      ∨ (s.status.edgeValid = true ∧ s.status.below = true ∧ x > s.trk.pos ∧ s.edgeUpdate x =
          { s with status := { s.status with below := false }, edgeCount := 1#32 })
      ∨ (s.status.edgeValid = true ∧ s.status.below = false ∧ x < s.trk.neg ∧ s.edgeUpdate x =
          { s with status := { s.status with below := true }, edgeCount := 1#32 })
      ∨ (s.status.edgeValid = true ∧ ¬ (s.status.below = true ∧ x > s.trk.pos)
          ∧ ¬ (s.status.below = false ∧ x < s.trk.neg)
          ∧ s.edgeUpdate x = { s with edgeCount := toRegU (satu32 (s.edgeCount.toNat + 1)) }) := by
  unfold State.edgeUpdate State.edgeRises State.edgeFalls
  cases hv : s.status.edgeValid <;> cases hb : s.status.below <;> simp [Config.midInit]
  · by_cases hx : x < s.trk.neg <;> simp [hx]
    omega
  · by_cases hx : s.trk.pos < x <;> simp [hx]
    omega

/-- All the events the edge detector can return (R222): the in-state count with the sign of the transition. -/
theorem State.edgeEvent_cases (s : State) (x : Int) :
    (s.edgeRises x = true ∧ (s.edgeEvent x).toInt = (min s.edgeCount.toNat 2147483647 : Nat))
      ∨ (s.edgeRises x = false ∧ s.edgeFalls x = true
          ∧ (s.edgeEvent x).toInt = -(min s.edgeCount.toNat 2147483648 : Nat))
      ∨ (s.edgeRises x = false ∧ s.edgeFalls x = false ∧ s.edgeEvent x = 0#32) := by
  unfold State.edgeEvent
  cases hr : s.edgeRises x <;> cases hf : s.edgeFalls x <;> simp only [if_true, if_false, Bool.false_eq_true]
  · simp
  · refine .inr (.inl ⟨trivial, trivial, toReg_toInt (by omega) (by omega)⟩)
  · refine .inl ⟨trivial, toReg_toInt (by omega) (by omega)⟩
  · refine .inl ⟨trivial, toReg_toInt (by omega) (by omega)⟩

/-- The edge detector writes BELOW, EDGE_VALID and EDGE_COUNT and nothing else. -/
theorem State.edgeUpdate_frame (s : State) (x : Int) : ∃ b v c,
    s.edgeUpdate x = { s with status := { s.status with below := b, edgeValid := v }, edgeCount := c } := by
  rcases s.edgeUpdate_cases x with ⟨_, h⟩ | ⟨_, _, _, h⟩ | ⟨_, _, _, h⟩ | ⟨_, _, _, h⟩ <;> rw [h]
  · exact ⟨_, _, _, rfl⟩
  · exact ⟨_, s.status.edgeValid, _, rfl⟩
  · exact ⟨_, s.status.edgeValid, _, rfl⟩
  · exact ⟨s.status.below, s.status.edgeValid, _, rfl⟩

/-! ## The tracker -/

/-- Step 1 as integers: the range is widened to include the sample (R194). -/
theorem Tracker.widen_toInt (t : Tracker) {x : Int} (h0 : 0 ≤ x) (h1 : x ≤ 2147483647) :
    (t.widen x).tmin.toInt = min t.tmin.toInt x ∧ (t.widen x).tmax.toInt = max t.tmax.toInt x
      ∧ (t.widen x).decayStep = t.decayStep ∧ (t.widen x).minRange = t.minRange := by
  have hx : (toReg x).toInt = x := toReg_toInt (by omega) h1
  simp only [Tracker.widen]
  refine ⟨?_, ?_, trivial, trivial⟩
  · split <;> omega
  · split <;> omega

/-- All step 2 can do (R194). -/
theorem Tracker.shrink_cases (t : Tracker) (x : Int) :
    (t.range ≥ t.minRange.toNat ∧ x > t.mid ∧ t.shrink x = { t with tmin := toReg (t.tmin.toInt + t.decayStep.toNat) })
      ∨ (t.range ≥ t.minRange.toNat ∧ x < t.mid
          ∧ t.shrink x = { t with tmax := toReg (t.tmax.toInt - t.decayStep.toNat) })
      ∨ ((t.range < t.minRange.toNat ∨ x = t.mid) ∧ t.shrink x = t) := by
  unfold Tracker.shrink
  split
  · split
    · exact .inl ⟨by assumption, by assumption, rfl⟩
    · split
      · exact .inr (.inl ⟨by assumption, by assumption, rfl⟩)
      · exact .inr (.inr ⟨.inr (by omega), rfl⟩)
  · exact .inr (.inr ⟨.inl (by omega), rfl⟩)

/-- An update keeps the configuration. -/
theorem Tracker.update_config (t : Tracker) (x : Int) :
    (t.update x).decayStep = t.decayStep ∧ (t.update x).minRange = t.minRange := by
  unfold Tracker.update Tracker.restore
  rcases Tracker.shrink_cases (t.widen x) x with ⟨_, _, h⟩ | ⟨_, _, h⟩ | ⟨_, h⟩ <;> rw [h] <;> split <;>
    exact ⟨rfl, rfl⟩

/-! ## The normalizer -/

theorem foldl_max_spec : ∀ (es : List Word) (m : Int),
    m ≤ es.foldl (fun m e => max m e.toInt) m ∧ (∀ e ∈ es, e.toInt ≤ es.foldl (fun m e => max m e.toInt) m)
      ∧ (es.foldl (fun m e => max m e.toInt) m = m ∨ ∃ e ∈ es, es.foldl (fun m e => max m e.toInt) m = e.toInt)
  | [], m => by simp
  | e :: es, m => by
    obtain ⟨h1, h2, h3⟩ := foldl_max_spec es (max m e.toInt)
    simp only [List.foldl_cons, List.mem_cons, forall_eq_or_imp, exists_eq_or_imp]
    refine ⟨by omega, ⟨by omega, h2⟩, ?_⟩
    rcases h3 with h3 | h3
    · omega
    · exact .inr (.inr h3)

theorem foldl_min_spec : ∀ (es : List Word) (m : Int),
    es.foldl (fun m e => min m e.toInt) m ≤ m ∧ (∀ e ∈ es, es.foldl (fun m e => min m e.toInt) m ≤ e.toInt)
      ∧ (es.foldl (fun m e => min m e.toInt) m = m ∨ ∃ e ∈ es, es.foldl (fun m e => min m e.toInt) m = e.toInt)
  | [], m => by simp
  | e :: es, m => by
    obtain ⟨h1, h2, h3⟩ := foldl_min_spec es (min m e.toInt)
    simp only [List.foldl_cons, List.mem_cons, forall_eq_or_imp, exists_eq_or_imp]
    refine ⟨by omega, ⟨by omega, h2⟩, ?_⟩
    rcases h3 with h3 | h3
    · omega
    · exact .inr (.inr h3)

/-- Both ends after step 2 are in s32 (R171). -/
theorem Normalizer.widened_range (n : Normalizer) (es : List Word) :
    (-2147483648 ≤ n.widenedMax es ∧ n.widenedMax es ≤ 2147483647)
      ∧ -2147483648 ≤ n.widenedMin es ∧ n.widenedMin es ≤ 2147483647 := by
  have r1 := sat32_range n.decayedMax
  have r2 := sat32_range n.decayedMin
  obtain ⟨a1, _, a3⟩ := foldl_max_spec es (sat32 n.decayedMax)
  obtain ⟨b1, _, b3⟩ := foldl_min_spec es (sat32 n.decayedMin)
  simp only [Normalizer.widenedMax, Normalizer.widenedMin]
  refine ⟨⟨by omega, ?_⟩, ?_, by omega⟩
  · rcases a3 with h | ⟨e, _, h⟩ <;> rw [h]
    · omega
    · exact (word_toInt_range e).2
  · rcases b3 with h | ⟨e, _, h⟩ <;> rw [h]
    · omega
    · exact (word_toInt_range e).1

/-- All an update can do, as integers (R171): the three cases of step 3. -/
theorem Normalizer.update_cases (n : Normalizer) (es : List Word) :
    (n.update es).decay = n.decay ∧ (n.update es).eps = n.eps ∧
      ((n.widenedMin es < n.widenedMax es ∧ (n.update es).smax.toInt = n.widenedMax es
          ∧ (n.update es).smin.toInt = n.widenedMin es)
        ∨ (n.widenedMax es ≤ n.widenedMin es ∧ -2147483648 ≤ n.widenedMax es - n.eps.toNat
          ∧ (n.update es).smax.toInt = n.widenedMax es ∧ (n.update es).smin.toInt = n.widenedMax es - n.eps.toNat)
        ∨ (n.widenedMax es ≤ n.widenedMin es ∧ n.widenedMax es - n.eps.toNat < -2147483648
          ∧ (n.update es).smax.toInt = -2147483648 + n.eps.toNat ∧ (n.update es).smin.toInt = -2147483648)) := by
  obtain ⟨⟨a1, a2⟩, b1, b2⟩ := n.widened_range es
  have he := n.eps.isLt
  unfold Normalizer.update
  split
  · split
    · refine ⟨rfl, rfl, .inr (.inr ⟨by omega, by omega, ?_, ?_⟩)⟩ <;> exact toReg_toInt (by omega) (by omega)
    · refine ⟨rfl, rfl, .inr (.inl ⟨by omega, by omega, ?_, ?_⟩)⟩ <;> exact toReg_toInt (by omega) (by omega)
  · refine ⟨rfl, rfl, .inl ⟨by omega, ?_, ?_⟩⟩ <;> exact toReg_toInt (by omega) (by omega)

/-- A normalized sample is at most NORM_CEIL (R172). -/
theorem Normalizer.rescale_le (n : Normalizer) (e : Word) : (n.rescale e).toNat ≤ 1073741823 := by
  unfold Normalizer.rescale
  simp only [Config.normCeil]
  split
  · decide
  · split
    · decide
    · have := toReg_toNat (v := n.quotient e) (by omega) (by omega)
      omega

/-! ## The fused step -/

/-- All the fused step can do: the tracker and the edge detector are updated, and the event, if there is one, is
queued or dropped (R241). -/
theorem State.nstepCore_cases (s : State) (x : Int) :
    (s.nstepEvent x = 0#32 ∧ s.nstepCore x = (s.trkUpdate x).edgeUpdate x)
      ∨ (s.nstepEvent x ≠ 0#32
          ∧ s.nstepCore x = ((s.trkUpdate x).edgeUpdate x).queuePush (s.nstepEvent x)) := by
  unfold State.nstepCore
  split
  · exact .inr ⟨by assumption, rfl⟩
  · exact .inl ⟨by simp_all, rfl⟩

end Sys2Proof.Machine
end

