-- ==== Sys2Proof/Laws/PerInstr.lean ====
section
/-! SUPPORT. Statements about every instruction, one lemma per constructor: the encoder writes only words that
spec/opcode_table.json accepts. -/

namespace Sys2Proof.Laws.EncodeLegal

/-- The word of a command is its row's opcode with all the row's MBZ bits zero (30_encoding.md R106). -/
def Statement (i : Instr) : Prop := wellFormedWord (encode i) = true

/-- A word meets a row when its bits under the row's mask are the row's pattern. -/
theorem of_row {w : CmdWord} (r : OpRow) (hr : r ∈ opTable) (h : w &&& r.legalMask = r.pattern) :
    wellFormedWord w = true :=
  List.any_eq_true.2 ⟨r, hr, by simp [OpRow.accepts, h]⟩

/-- Masking a packed word masks its fields. -/
theorem packWord_and (o o' i i' : Byte) (m m' : Half) (v v' : Word) :
    packWord o i m v &&& packWord o' i' m' v' = packWord (o &&& o') (i &&& i') (m &&& m') (v &&& v') := by
  unfold packWord
  rw [BitVec.and_append, BitVec.and_append, BitVec.and_append]

/-- A packed word is its own masked fields: what a row's check comes to. -/
theorem packWord_masked {o o' i i' : Byte} {m m' : Half} {v v' : Word} {pattern mask : CmdWord}
    (hmask : mask = packWord o' i' m' v') (hp : pattern = packWord (o &&& o') (i &&& i') (m &&& m') (v &&& v')) :
    packWord o i m v &&& mask = pattern := by
  rw [hmask, hp, packWord_and]

theorem nop : Statement (.nop) :=
  of_row ⟨"NOP", 0x0000000000000000#64, 0xFFFFFFFFFFFFFFFF#64⟩ (by decide) (by decide)

theorem rdreg (idx : Byte) : Statement (.rdreg idx) :=
  of_row ⟨"RDREG", 0x0100000000000000#64, 0xFF00FFFFFFFFFFFF#64⟩ (by decide)
    (packWord_masked (o' := 0xFF#8) (i' := 0x00#8) (m' := 0xFFFF#16) (v' := 0xFFFFFFFF#32) (by decide)
      (by simp only [BitVec.and_zero]; decide))

theorem wrreg (idx : Byte) (v : Word) : Statement (.wrreg idx v) :=
  of_row ⟨"WRREG", 0x0200000000000000#64, 0xFF00FFFF00000000#64⟩ (by decide)
    (packWord_masked (o' := 0xFF#8) (i' := 0x00#8) (m' := 0xFFFF#16) (v' := 0x00000000#32) (by decide)
      (by simp only [BitVec.and_zero]; decide))

theorem sreset : Statement (.sreset) :=
  of_row ⟨"SRESET", 0x0300000000000000#64, 0xFFFFFFFFFFFFFFFF#64⟩ (by decide) (by decide)

theorem rdbin (idx : Byte) : Statement (.rdbin idx) :=
  of_row ⟨"RDBIN", 0x0400000000000000#64, 0xFF00FFFFFFFFFFFF#64⟩ (by decide)
    (packWord_masked (o' := 0xFF#8) (i' := 0x00#8) (m' := 0xFFFF#16) (v' := 0xFFFFFFFF#32) (by decide)
      (by simp only [BitVec.and_zero]; decide))

theorem fltStep (pcm : Half) : Statement (.fltStep pcm) :=
  of_row ⟨"FLT_STEP", 0x1000000000000000#64, 0xFFFFFFFFFFFF0000#64⟩ (by decide)
    (packWord_masked (o' := 0xFF#8) (i' := 0xFF#8) (m' := 0xFFFF#16) (v' := 0xFFFF0000#32) (by decide)
      (by
        rw [show (0#16 ++ pcm : Word) &&& 0xFFFF0000#32 = 0#32 by
          rw [show (0xFFFF0000#32 : Word) = 0xFFFF#16 ++ 0#16 by decide, BitVec.and_append]; simp]
        decide))

theorem nrmStep (v : Word) : Statement (.nrmStep v) :=
  of_row ⟨"NRM_STEP", 0x1800000000000000#64, 0xFFFFFFFF00000000#64⟩ (by decide)
    (packWord_masked (o' := 0xFF#8) (i' := 0xFF#8) (m' := 0xFFFF#16) (v' := 0x00000000#32) (by decide)
      (by simp only [BitVec.and_zero]; decide))

theorem trkInit : Statement (.trkInit) :=
  of_row ⟨"TRK_INIT", 0x2000000000000000#64, 0xFFFFFFFFFFFFFFFF#64⟩ (by decide) (by decide)

theorem trkUpdate (v : Word) : Statement (.trkUpdate v) :=
  of_row ⟨"TRK_UPDATE", 0x2100000000000000#64, 0xFFFFFFFF00000000#64⟩ (by decide)
    (packWord_masked (o' := 0xFF#8) (i' := 0xFF#8) (m' := 0xFFFF#16) (v' := 0x00000000#32) (by decide)
      (by simp only [BitVec.and_zero]; decide))

theorem trkMid : Statement (.trkMid) :=
  of_row ⟨"TRK_MID", 0x2200000000000000#64, 0xFFFFFFFFFFFFFFFF#64⟩ (by decide) (by decide)

theorem trkPos : Statement (.trkPos) :=
  of_row ⟨"TRK_POS", 0x2300000000000000#64, 0xFFFFFFFFFFFFFFFF#64⟩ (by decide) (by decide)

theorem trkNeg : Statement (.trkNeg) :=
  of_row ⟨"TRK_NEG", 0x2400000000000000#64, 0xFFFFFFFFFFFFFFFF#64⟩ (by decide) (by decide)

theorem edgUpdate (v : Word) : Statement (.edgUpdate v) :=
  of_row ⟨"EDG_UPDATE", 0x2800000000000000#64, 0xFFFFFFFF00000000#64⟩ (by decide)
    (packWord_masked (o' := 0xFF#8) (i' := 0xFF#8) (m' := 0xFFFF#16) (v' := 0x00000000#32) (by decide)
      (by simp only [BitVec.and_zero]; decide))

theorem nstep (v : Word) : Statement (.nstep v) :=
  of_row ⟨"NSTEP", 0x3000000000000000#64, 0xFFFFFFFF00000000#64⟩ (by decide)
    (packWord_masked (o' := 0xFF#8) (i' := 0xFF#8) (m' := 0xFFFF#16) (v' := 0x00000000#32) (by decide)
      (by simp only [BitVec.and_zero]; decide))

theorem procBlock (count : Half) (base : Word) : Statement (.procBlock count base) :=
  of_row ⟨"PROC_BLOCK", 0x3100000000000000#64, 0xFFFF000000000000#64⟩ (by decide)
    (packWord_masked (o' := 0xFF#8) (i' := 0xFF#8) (m' := 0x0000#16) (v' := 0x00000000#32) (by decide)
      (by simp only [BitVec.and_zero]; decide))

theorem evtSubmit (v : Word) : Statement (.evtSubmit v) :=
  of_row ⟨"EVT_SUBMIT", 0x3200000000000000#64, 0xFFFFFFFF00000000#64⟩ (by decide)
    (packWord_masked (o' := 0xFF#8) (i' := 0xFF#8) (m' := 0xFFFF#16) (v' := 0x00000000#32) (by decide)
      (by simp only [BitVec.and_zero]; decide))

theorem histInit : Statement (.histInit) :=
  of_row ⟨"HIST_INIT", 0x4000000000000000#64, 0xFFFFFFFFFFFFFFFF#64⟩ (by decide) (by decide)

theorem histAdd (v : Word) : Statement (.histAdd v) :=
  of_row ⟨"HIST_ADD", 0x4100000000000000#64, 0xFFFFFFFF00000000#64⟩ (by decide)
    (packWord_masked (o' := 0xFF#8) (i' := 0xFF#8) (m' := 0xFFFF#16) (v' := 0x00000000#32) (by decide)
      (by simp only [BitVec.and_zero]; decide))

theorem histDecay : Statement (.histDecay) :=
  of_row ⟨"HIST_DECAY", 0x4200000000000000#64, 0xFFFFFFFFFFFFFFFF#64⟩ (by decide) (by decide)

theorem histPeaks : Statement (.histPeaks) :=
  of_row ⟨"HIST_PEAKS", 0x4300000000000000#64, 0xFFFFFFFFFFFFFFFF#64⟩ (by decide) (by decide)

theorem histThr : Statement (.histThr) :=
  of_row ⟨"HIST_THR", 0x4400000000000000#64, 0xFFFFFFFFFFFFFFFF#64⟩ (by decide) (by decide)

theorem decStep : Statement (.decStep) :=
  of_row ⟨"DEC_STEP", 0x5000000000000000#64, 0xFFFFFFFFFFFFFFFF#64⟩ (by decide) (by decide)

theorem decTimeout : Statement (.decTimeout) :=
  of_row ⟨"DEC_TIMEOUT", 0x5100000000000000#64, 0xFFFFFFFFFFFFFFFF#64⟩ (by decide) (by decide)

end Sys2Proof.Laws.EncodeLegal
end

