-- ==== Sys2Proof/Tests/Slice0.lean ====
section
/-! SUPPORT. The model's own tests. Expected values are the vectors of 95_test_vectors.md (section and row named in the
comments) or the encodings of 30_encoding.md R100 to R106 written out field by field. Last, one witness for the
hypotheses of each statement that has some. -/

namespace Sys2Proof.Tests

open Sys2Proof Sys2Proof.Machine

/-! ## Words written out from the encodings: opc, idx, imm16, op32 (R100 to R106) -/

theorem test_decode_control :
    decode (0b00000000#8 ++ 0b00000000#8 ++ 0#16 ++ 0#32) = some .nop
      ∧ decode (0b00000001#8 ++ 0b01010101#8 ++ 0#16 ++ 0#32) = some (.rdreg 0x55#8)
      ∧ decode (0b00000010#8 ++ 0b01000001#8 ++ 0#16 ++ 0x80000064#32) = some (.wrreg 0x41#8 0x80000064#32)
      ∧ decode (0b00000011#8 ++ 0b00000000#8 ++ 0#16 ++ 0#32) = some .sreset
      ∧ decode (0b00000100#8 ++ 0b11111110#8 ++ 0#16 ++ 0#32) = some (.rdbin 0xFE#8) := by decide

theorem test_decode_filter :
    decode (0b00010000#8 ++ 0#8 ++ 0#16 ++ 0#16 ++ 0b1111111110011100#16) = some (.fltStep 0xFF9C#16)
      ∧ decode (0b00011000#8 ++ 0#8 ++ 0#16 ++ 0xFFFFF600#32) = some (.nrmStep 0xFFFFF600#32) := by decide

theorem test_decode_tracker :
    decode (0b00100000#8 ++ 0#8 ++ 0#16 ++ 0#32) = some .trkInit
      ∧ decode (0b00100001#8 ++ 0#8 ++ 0#16 ++ 0x12345678#32) = some (.trkUpdate 0x12345678#32)
      ∧ decode (0b00100010#8 ++ 0#8 ++ 0#16 ++ 0#32) = some .trkMid
      ∧ decode (0b00100011#8 ++ 0#8 ++ 0#16 ++ 0#32) = some .trkPos
      ∧ decode (0b00100100#8 ++ 0#8 ++ 0#16 ++ 0#32) = some .trkNeg
      ∧ decode (0b00101000#8 ++ 0#8 ++ 0#16 ++ 0x000001F5#32) = some (.edgUpdate 501#32) := by decide

theorem test_decode_block :
    decode (0b00110000#8 ++ 0#8 ++ 0#16 ++ 0x7FFFFFFF#32) = some (.nstep 0x7FFFFFFF#32)
      ∧ decode (0b00110001#8 ++ 0#8 ++ 0b0000010000000000#16 ++ 0x00000F00#32) = some (.procBlock 1024#16 0xF00#32)
      ∧ decode (0b00110010#8 ++ 0#8 ++ 0#16 ++ 0x80000000#32) = some (.evtSubmit 0x80000000#32) := by decide

theorem test_decode_histogram :
    decode (0b01000000#8 ++ 0#8 ++ 0#16 ++ 0#32) = some .histInit
      ∧ decode (0b01000001#8 ++ 0#8 ++ 0#16 ++ 0x00000320#32) = some (.histAdd 800#32)
      ∧ decode (0b01000010#8 ++ 0#8 ++ 0#16 ++ 0#32) = some .histDecay
      ∧ decode (0b01000011#8 ++ 0#8 ++ 0#16 ++ 0#32) = some .histPeaks
      ∧ decode (0b01000100#8 ++ 0#8 ++ 0#16 ++ 0#32) = some .histThr := by decide

theorem test_decode_classifier :
    decode (0b01010000#8 ++ 0#8 ++ 0#16 ++ 0#32) = some .decStep
      ∧ decode (0b01010001#8 ++ 0#8 ++ 0#16 ++ 0#32) = some .decTimeout := by decide

/-- A word given as the table numbers its bits, and the step that fetches it. -/
theorem test_table_word :
    decodeTableWord 64 0x0402000000000000 = some (.rdbin 2#8)
      ∧ (State.reset.withFetchWord 64 0x0402000000000000).input = [.command 0x0402000000000000#64] := by decide

/-! ## WellFormed: each check refuses an ill-formed word (R108; section 3.1, illegal words) -/

theorem test_ill_unknown_opcode :
    ([0xFF00000000000000#64, 0x0500000000000000#64, 0x1100000000000000#64, 0x2500000000000000#64,
      0x3300000000000000#64, 0x4500000000000000#64, 0x5200000000000000#64] : List CmdWord).all
        (fun w => !wellFormedWord w && (decode w).isNone) = true := by decide

/-- Format N: idx, imm16, op32. -/
theorem test_ill_format_n :
    ([0x2001000000000000#64, 0x2000000100000000#64, 0x0000000000000001#64, 0x5100000080000000#64] : List CmdWord).all
        (fun w => !wellFormedWord w && (decode w).isNone) = true := by decide

/-- Format R: imm16, and op32 but for WRREG. -/
theorem test_ill_format_r :
    ([0x0101000100000000#64, 0x0101000000000001#64, 0x0400800000000000#64, 0x0400000080000000#64,
      0x0240000100000000#64] : List CmdWord).all
        (fun w => !wellFormedWord w && (decode w).isNone) = true := by decide

/-- Format V: idx and imm16, and the upper half of op32 for FLT_STEP. -/
theorem test_ill_format_v :
    ([0x1801000000000000#64, 0x2100000100000000#64, 0x1000000000010000#64, 0x1000000080000000#64] : List CmdWord).all
        (fun w => !wellFormedWord w && (decode w).isNone) = true := by decide

/-- Format B: idx. -/
theorem test_ill_format_b :
    (wellFormedWord 0x3101000000000000#64 || (decode 0x3101000000000000#64).isSome) = false := by decide

/-! ## One step each -/

/-- The next state of one command word. -/
def after (w : CmdWord) (s : State) : State :=
  match step (s.withCommand w) with
  | .next t => t
  | .fault _ => s
  | .refused _ => s

/-- The response to one command word. -/
def answer (w : CmdWord) (s : State) : Option CmdWord := (after w s).rsp.getLast?

/-- Reset with both units started: `TRK_SETUP 2, 100` and `HIST_SETUP 0, 800, 8, 1, 65536` (no decay), T_CUR 150. -/
def ready : State :=
  { State.reset with
    status := { Status.reset with trkReady := true, histReady := true }
    trk := { decayStep := 2#32, minRange := 100#32, tmin := 0xFFFFFFFF#32, tmax := 1#32 }
    hist := { State.reset.hist with
      minVal := 0#32, maxVal := 800#32, nbins := 8#32, spread := 1#32, decay := 65536#32, tCur := 150#32 } }

/-- `ready` with bins `[0, 0, 1, 2, 1, 0, 1, 0]` in units of 65536 (3.6 H6). -/
def clusters : State :=
  { ready with
    hist := { ready.hist with
      bins := [0#32, 0#32, 65536#32, 131072#32, 65536#32, 0#32, 65536#32, 0#32] ++ List.replicate 248 0#32 } }

/-- `ready` with the range of 3.4 E1, an edge state and a count. -/
def comparing (below : Bool) (count : Word) : State :=
  { ready with
    trk := { ready.trk with tmin := 1#32, tmax := 1000#32 }
    status := { ready.status with edgeValid := true, below := below }
    edgeCount := count }

theorem test_nop : answer 0x0000000000000000#64 State.reset = some 0x0000000000000000#64 := by decide
theorem test_illegal : answer 0xFFFFFFFFFFFFFFFF#64 State.reset = some 0x1FFF000000000000#64
    ∧ (after 0xFFFFFFFFFFFFFFFF#64 State.reset).status.toWord = 0x810#32 := by decide
theorem test_rdreg_id : answer 0x0100000000000000#64 State.reset = some 0x000100004D524431#64 := by decide
theorem test_rdreg_unmapped : answer 0x0105000000000000#64 State.reset = some 0x1201000000000000#64 := by decide
theorem test_wrreg_guarded : answer 0x0240000000000002#64 ready = some 0x0002000000000000#64
    ∧ (after 0x0240000000000002#64 ready).status.trkReady = false := by decide
theorem test_wrreg_reserved_bit : answer 0x0202000000000004#64 State.reset = some 0x1002000000000000#64
    ∧ (after 0x0202000000000004#64 State.reset).ctrl = 2#32 := by decide
theorem test_sreset : answer 0x0300000000000000#64 clusters = some 0x0003000000000000#64
    ∧ (after 0x0300000000000000#64 clusters).hist.bin 3 = 0#32 := by decide
theorem test_rdbin : answer 0x0403000000000000#64 clusters = some 0x0004000000020000#64 := by decide
/-- 3.2 F1, row 2. -/
theorem test_flt_step_rectifies : answer 0x100000000000FF9C#64 State.reset = some 0x0010000000006400#64 := by decide
/-- 3.2 F3: rounding toward minus infinity. -/
theorem test_flt_step_floors :
    answer 0x100000000000FFFF#64 (after 0x0210000000000001#64 State.reset) = some 0x0010000000000001#64 := by decide
/-- 3.3 M1, row 2. -/
theorem test_nrm_step_decays :
    answer 0x1800000000003200#64 (after 0x1800000000006400#64 State.reset) = some 0x0018000020526BC6#64 := by decide
/-- 3.3 M2: the degenerate range. -/
theorem test_nrm_step_degenerate : answer 0x1800000000000000#64 State.reset = some 0x001800003FFFFFFF#64
    ∧ (after 0x1800000000000000#64 State.reset).norm.smin = 0xFFFFFFE6#32 := by decide
/-- 3.4 T1: equality is illegal, one more is legal. -/
theorem test_trk_init_boundary :
    answer 0x2000000000000000#64 (after 0x0241000000000004#64 ready) = some 0x1020000000000000#64
      ∧ answer 0x2000000000000000#64 (after 0x0241000000000005#64 ready) = some 0x0020000000000000#64 := by decide
/-- 3.4 T2, row 3 from the fresh range. -/
theorem test_trk_update_decays : answer 0x21000000000003E8#64 ready = some 0x00210000000001F4#64
    ∧ (after 0x21000000000003E8#64 ready).trk.tmin = 1#32 := by decide
theorem test_trk_reads : answer 0x2200000000000000#64 ready = some 0x0022000000000000#64
    ∧ answer 0x2300000000000000#64 ready = some 0x0023000000000000#64
    ∧ answer 0x2400000000000000#64 ready = some 0x00240000FFFFFFFF#64 := by decide
/-- 3.4 E1, rows 5 and 6: strict comparison, then rising. -/
theorem test_edg_update_rises : answer 0x28000000000001F4#64 (comparing true 3#32) = some 0x0028000000000000#64
    ∧ answer 0x28000000000001F5#64 (comparing true 3#32) = some 0x0028000000000003#64 := by decide
/-- 3.4 E2: the count saturates on its way out. -/
theorem test_edg_update_saturates :
    answer 0x2800000000000000#64 (comparing false 0x90000000#32) = some 0x0028000080000000#64
      ∧ answer 0x2800000000000258#64 (comparing true 0xFFFFFFFF#32) = some 0x002800007FFFFFFF#64 := by decide
/-- 3.4 N1, row 4, from the state of row 3. -/
theorem test_nstep_queues :
    (let s := { ready with status := { ready.status with edgeValid := true, below := true }, edgeCount := 3#32 }
     answer 0x30000000000003E8#64 s = some 0x0030000000000003#64
       ∧ (after 0x30000000000003E8#64 s).queue = [3#32]) := by decide
/-- Rows 1 and 2 of 4.4's table as a block of their own (0, then 1000): one event, and the debug copy in both halves. -/
theorem test_proc_block_debug_copy :
    (let s := { ready with aud := [(0x104, 0xE8#8), (0x105, 0x03#8), (0x106, 0x34#8), (0x107, 0x12#8)] }
     answer 0x3100000200000100#64 s = some 0x0031000100000008#64
       ∧ (after 0x3100000200000100#64 s).aud = [(0x104, 0xFF#8), (0x105, 0x7F#8), (0x106, 0xFF#8), (0x107, 0x7F#8)]) :=
  by decide
/-- 3.8: the count is checked before the address. -/
theorem test_proc_block_checks : answer 0x3100040100000102#64 ready = some 0x1031000000000000#64
    ∧ answer 0x31000001FFFFFFFC#64 ready = some 0x1331000000000000#64 := by decide
/-- 3.5: a full queue. -/
theorem test_evt_submit_full :
    answer 0x32000000FFFFFFEF#64 { ready with queue := List.replicate 16 0xFFFFFFFF#32 } = some 0x0232000000000000#64 := by
  decide
/-- 3.6 H1, the examples' configuration. -/
theorem test_hist_init : answer 0x4000000000000000#64 ready = some 0x0040000000000096#64 := by decide
/-- 3.6 H2: the closed range. -/
theorem test_hist_add_range : answer 0x4100000000000320#64 ready = some 0x0041000700000001#64
    ∧ answer 0x4100000000000321#64 ready = some 0x0041000000000000#64 := by decide
/-- 3.6 H4: one decay step at 58982. -/
theorem test_hist_decay :
    (after 0x4200000000000000#64 { clusters with hist := { clusters.hist with decay := 58982#32 } }).hist.bin 2
      = 58982#32 := by decide
/-- 3.6 H6: the pair (3, 6), and 500. -/
theorem test_hist_peaks : answer 0x4300000000000000#64 clusters = some 0x0043000300060003#64
    ∧ answer 0x4400000000000000#64 clusters = some 0x00440000000001F4#64 := by decide
/-- 3.7 K1 and K2: a tone, and gaps at the boundaries of T_CUR = 250. -/
theorem test_dec_step_tone : answer 0x5000000000000000#64 { ready with queue := [0xFFFFFF88#32] }
    = some 0x00500001FFFFFF88#64 := by decide
theorem test_dec_step_gaps :
    (let s := fun (d : Word) => { ready with queue := [d], hist := { ready.hist with tCur := 250#32 } }
     answer 0x5000000000000000#64 (s 249#32) = some 0x00500000000000F9#64
       ∧ answer 0x5000000000000000#64 (s 750#32) = some 0x00500403000002EE#64) := by decide
/-- 4.3, row 18, and 3.7 K1, row 3. -/
theorem test_dec_timeout :
    answer 0x5100000000000000#64 { ready with status := { ready.status with idleFlushed := false } }
        = some 0x0051050300000000#64
      ∧ answer 0x5100000000000000#64 { ready with queue := [1#32] } = some 0x1451000000000000#64 := by decide

/-! ## Witnesses: a state and operands that meet a statement's hypotheses, one conjunct for each clause -/

/-- A state of R71 with everything started, an event waiting and AUD not empty. -/
def busy : State :=
  { comparing true 3#32 with
    queue := [0xFFFFFF88#32, 249#32]
    aud := [(0, 0x64#8), (1, 0xFF#8), (4, 0x64#8)]
    norm := { decay := 655#32, eps := 26#32, smax := 25600#32, smin := 0xFFFFF600#32 }
    input := [.command 0x5000000000000000#64] }

/-- Two clusters, the second the taller, six bins apart. -/
def twoBins : State :=
  { ready with
    hist := { ready.hist with
      bins := [0#32, 65536#32, 0#32, 0#32, 0#32, 0#32, 0#32, 131072#32] ++ List.replicate 248 0#32 } }

/-- A command that `execAll` runs answers a next state. -/
theorem completes {i : Instr} {s : State} (h : (execAll [i] s).isSome = true) : ∃ t, exec i s = .next t := by
  unfold execAll at h
  split at h
  · exact ⟨_, by assumption⟩
  · cases h
  · cases h

theorem clusters_sound : clusters.hist.Sound ∧ { clusters.hist with decay := 65535#32 }.Sound := by decide +kernel
theorem twoBins_sound : twoBins.hist.Sound := by decide +kernel
theorem busy_sound : busy.hist.Sound := by decide +kernel

/-- The invariants of a concrete state, with the two conditions on lists checked element by element. -/
theorem inv_of {s : State} (q : s.queue.all (fun e => decide (e ≠ 0#32)) = true) (qlen : s.queue.length ≤ 16)
    (trk : s.TrackerInv) (edge : s.EdgeInv) (len : s.hist.bins.length = 256) (hist : s.hist.Sound)
    (rest : (s.hist.bins.drop s.hist.nbins.toNat).all (fun b => decide (b = 0#32)) = true) (cfg : s.ConfigInv)
    (norm : s.NormInv) (aud : s.aud.wf = true) : s.Inv := by
  refine ⟨⟨qlen, fun e he => ?_⟩, trk, edge, ⟨len, fun _ => ⟨hist, fun b hb => ?_⟩⟩, cfg, norm, aud⟩
  · exact of_decide_eq_true (List.all_eq_true.1 q e he)
  · exact of_decide_eq_true (List.all_eq_true.1 rest b hb)

theorem busy_inv (c : Bool) : { busy with status := { busy.status with corr := c } }.Inv := by
  refine inv_of ?_ ?_ ?_ ?_ busy_sound.1 busy_sound ?_ ?_ ?_ ?_ <;> cases c <;> decide +kernel

theorem witness_LegalWordRunsIllegalWordRaises :
    wellFormedWord 0x5000000000000000#64 = true ∧ wellFormedWord 0x5000000000000001#64 = false
      ∧ busy.input = .command 0x5000000000000000#64 :: [] := by decide
theorem witness_StepRunsDecodedCommand :
    busy.input = .command 0x5000000000000000#64 :: [] ∧ decode 0x5000000000000000#64 = some .decStep := by decide
theorem witness_HostMovesAndIdle :
    ready.input = []
      ∧ ({ busy with input := [.audWrite 2047#11 0x1234#16] } : State).input = .audWrite 2047#11 0x1234#16 :: []
      ∧ busy.aud.wf = true
      ∧ ({ busy with input := [.audRead 0#11] } : State).input = .audRead 0#11 :: [] := by decide
theorem witness_EveryWordAnsweredOnce :
    busy.input = .command 0x5000000000000000#64 :: [] ∧ ∃ t, step busy = .next t :=
  ⟨rfl, completes (i := .decStep) (s := { busy with input := [] }) (by decide)⟩
/-- A failing command, and an illegal word. -/
theorem witness_FailuresArePrecise :
    (∃ t r, step (State.reset.withCommand 0x2000000000000000#64) = .next t ∧ t.rsp = State.reset.rsp ++ [r]
        ∧ 0x10 ≤ (rspStatus r).toNat ∧ rspStatus r ≠ 0x1F#8)
      ∧ ∃ t r, step (State.reset.withCommand 0x0500000000000000#64) = .next t ∧ t.rsp = State.reset.rsp ++ [r]
        ∧ rspStatus r = 0x1F#8 :=
  ⟨⟨_, _, rfl, rfl, by decide, by decide⟩, ⟨_, _, rfl, rfl, by decide⟩⟩
theorem witness_StatusCodesByCommand : ∃ t r, exec .decTimeout busy = .next t ∧ t.rsp = busy.rsp ++ [r]
    ∧ rspStatus r = 0x14#8 := ⟨_, _, rfl, rfl, by decide⟩
theorem witness_NotInitWithoutReady :
    Instr.trkMid.needs = .trkReady ∧ Instr.decTimeout.needs = .histReady ∧ State.reset.status.trkReady = false
      ∧ State.reset.status.histReady = false := by decide
theorem witness_SoftAndHardReset :
    ({ busy with input := [.hardReset [(4095, 1#8)]] } : State).input = .hardReset [(4095, 1#8)] :: [] := rfl
theorem witness_RdregReadsEveryRegister :
    (regAt 0x00#8, regAt 0x55#8) = (some .ID, some .T_CUR) ∧ (regAt 0x05#8, regAt 0xFF#8) = (none, none) := by decide
theorem witness_WrregPlainRegisters :
    (3#32).toNat < 4 ∧ (65535#32).toNat ≤ 65535 ∧ 1 ≤ (1#32).toNat ∧ (65536#32).toNat ≤ 65536 := by decide
theorem witness_WrregRejects :
    (0x00#8).toNat ∉ [0x01, 0x02, 0x10] ∧ (0x55#8).toNat ∉ [0x53, 0x54] ∧ 4 ≤ (4#32).toNat ∧ 65535 < (65536#32).toNat
      ∧ (0#32).toNat = 0 ∧ 65536 < (65537#32).toNat
      ∧ [answer 0x0200000000000001#64 ready, answer 0x0255000000000001#64 ready, answer 0x0202000000000004#64 ready,
          answer 0x0230000000010000#64 ready, answer 0x0231000000000000#64 ready, answer 0x0231000000010001#64 ready]
        = [some 0x1202000000000000#64, some 0x1202000000000000#64, some 0x1002000000000000#64,
          some 0x1002000000000000#64, some 0x1002000000000000#64, some 0x1002000000000000#64] := by decide
theorem witness_RdbinReadsTheBin : (255#8).toNat < twoBins.hist.bins.length := by
  rw [twoBins_sound.1]
  decide
theorem witness_IdentityChainIsTheMagnitude :
    busy.bpf.b0 = 0x40000000#32 ∧ busy.bpf.b1 = 0#32 ∧ busy.bpf.b2 = 0#32 ∧ busy.bpf.a1 = 0#32 ∧ busy.bpf.a2 = 0#32
      ∧ busy.lpf.b0 = 0x40000000#32 ∧ busy.lpf.b1 = 0#32 ∧ busy.lpf.b2 = 0#32 ∧ busy.lpf.a1 = 0#32
      ∧ busy.lpf.a2 = 0#32 := by decide
theorem witness_NormUpdateFollowsTheRule : [25600#32, 0x80000000#32] ≠ ([] : List Word) ∧ 1 ≤ busy.norm.eps.toNat := by
  decide
theorem witness_RescaleFollowsTheRule :
    busy.norm.smin.toInt < busy.norm.smax.toInt ∧ busy.norm.smin.toInt ≤ (0xFFFFF600#32).toInt
      ∧ (25600#32).toInt ≤ busy.norm.smax.toInt := by decide
theorem witness_NrmStepResult : 1 ≤ State.reset.norm.eps.toNat := by decide
theorem witness_NormDecayTowardZero :
    busy.norm.smin.toInt ≤ 0 ∧ 0 ≤ busy.norm.smax.toInt ∧ busy.norm.decay.toNat ≤ 65535 := by decide
theorem witness_TrkInitStartsOrRejects :
    (let t : Nat → Nat → State := fun d m =>
      { ready with trk := { ready.trk with decayStep := BitVec.ofNat 32 d, minRange := BitVec.ofNat 32 m } }
     ((t 2 5).trk.decayStep.toNat ≠ 0 ∧ 2 * (t 2 5).trk.decayStep.toNat < (t 2 5).trk.minRange.toNat)
      ∧ (t 2 4).trk.minRange.toNat ≤ 2 * (t 2 4).trk.decayStep.toNat ∧ (t 0 100).trk.decayStep.toNat = 0) := by decide
/-- The range 1 .. 1000 with samples 0 and 2^31 - 1: both decayed ends fit. -/
theorem witness_TrkUpdateResult :
    (comparing true 3#32).status.trkReady = true ∧ (0#32).toNat ≤ 0x7FFFFFFF ∧ (0x7FFFFFFF#32).toNat ≤ 0x7FFFFFFF
      ∧ (comparing true 3#32).trk.tmin.toInt + 2 ≤ 2147483647
      ∧ -2147483648 ≤ (comparing true 3#32).trk.tmax.toInt - 2 := by decide
theorem witness_TrkReadsThresholds :
    ready.status.trkReady = true ∧ ready.trk.tmin.toInt ≤ ready.trk.tmax.toInt := by decide
theorem witness_SampleAboveRangeRejected :
    ready.status.trkReady = true ∧ 0x7FFFFFFF < (0x80000000#32).toNat ∧ 0x7FFFFFFF < (0xFFFFFFFF#32).toNat := by decide
theorem witness_TrackerHoldsTheSample : ready.trk.Sound ∧ (0 : Int) ≤ 2147483647 := by decide
theorem witness_TrackerRangeFloor :
    (let t := { ready.trk with tmin := 0#32, tmax := 100#32 }
     t.Sound ∧ (t.minRange.toNat : Int) ≤ t.range) ∧ ∀ x ∈ [(0 : Int), 2147483647], 0 ≤ x ∧ x ≤ 2147483647 := by decide
theorem witness_CorrectionNeverRecorded :
    { busy with status := { busy.status with corr := true } }.Inv
      ∧ (after 0x5000000000000000#64 { busy with status := { busy.status with corr := true } }).status.corr = true :=
  ⟨busy_inv true, by decide⟩
theorem witness_EdgFirstSample :
    ready.status.trkReady = true ∧ ready.status.edgeValid = false ∧ (0x7FFFFFFF#32).toNat ≤ 0x7FFFFFFF
      ∧ (after 0x2800000000000000#64 ready).status.below = true
      ∧ (after 0x280000007FFFFFFF#64 ready).status.below = false := by decide
/-- The three branches: rising at 501, falling at 249, one more sample at 500 and at 250. -/
theorem witness_EdgLaterSample :
    (comparing true 3#32).status.edgeValid = true ∧ (comparing true 3#32).status.trkReady = true
      ∧ [answer 0x28000000000001F5#64 (comparing true 3#32), answer 0x28000000000001F4#64 (comparing true 3#32),
          answer 0x28000000000000F9#64 (comparing false 3#32), answer 0x28000000000000FA#64 (comparing false 3#32)]
        = [some 0x0028000000000003#64, some 0x0028000000000000#64, some 0x00280000FFFFFFFD#64,
          some 0x0028000000000000#64] := by decide
theorem witness_ConstantStreamEmitsNoEdge :
    ready.trk.decayStep.toNat ≠ 0 ∧ 2 * ready.trk.decayStep.toNat < ready.trk.minRange.toNat
      ∧ (1000#32).toNat ≤ 0x7FFFFFFF ∧ ∃ s, exec .trkInit ready = .next s := ⟨by decide, by decide +kernel, by decide +kernel, completes (by decide +kernel)⟩
theorem witness_NstepIsTrackThenEdgeThenPush : busy.status.trkReady = true ∧ (600#32).toNat ≤ 0x7FFFFFFF := by decide
theorem witness_EvtSubmitQueuesOrDrops :
    (0xFFFFFFFF#32 : Word) ≠ 0#32 ∧ ({ ready with queue := List.replicate 15 1#32 } : State).queue.length ≠ 16
      ∧ ({ ready with queue := List.replicate 16 1#32 } : State).queue.length = 16 := by decide
/-- One frame at the end of AUD, and the whole of AUD. -/
theorem witness_ProcBlockIsTheSingleStageCommands :
    busy.status.trkReady = true ∧ (1 ≤ (1#16).toNat ∧ (0xFFC#32).toNat % 4 = 0 ∧ (0xFFC#32).toNat + 4 * (1#16).toNat ≤ 4096)
      ∧ (1024#16).toNat ≤ 1024 ∧ (0#32).toNat % 4 = 0 ∧ (0#32).toNat + 4 * (1024#16).toNat ≤ 4096 := by decide
/-- The same operands, with DBGOUT and without. -/
theorem witness_ProcBlockDebugCopy :
    busy.aud.wf = true ∧ busy.ctrl.getLsbD 1 = true ∧ ({ busy with ctrl := 1#32 } : State).ctrl.getLsbD 1 = false
      ∧ busy.status.trkReady = true := by decide
theorem witness_ProcBlockChecksInOrder :
    [answer 0x3100040100000102#64 ready, answer 0x3100040000000004#64 ready, answer 0x3100000000000002#64 ready,
        answer 0x3100000000001000#64 ready, answer 0x3100000000001004#64 ready]
      = [some 0x1031000000000000#64, some 0x1331000000000000#64, some 0x1331000000000000#64,
        some 0x0031000000000000#64, some 0x1331000000000000#64] := by decide
/-- 3.6 H1: the smallest and the largest legal configuration, and one failure of each check. -/
theorem witness_HistInitStartsOrRejects :
    (let h : Nat → Nat → Nat → Nat → Nat → Histogram := fun lo hi nb sp de =>
      { ready.hist with
        minVal := BitVec.ofNat 32 lo, maxVal := BitVec.ofNat 32 hi, nbins := BitVec.ofNat 32 nb
        spread := BitVec.ofNat 32 sp, decay := BitVec.ofNat 32 de }
     [h 0 800 2 0 65536, h 0 800 256 127 65536, h 0 800 0 0 58982, h 0 800 257 1 58982, h 800 800 8 1 58982,
        h 0 800 8 1 0, h 0 800 8 1 65537, h 0 800 8 4 58982].map Histogram.configLegal
      = [true, true, false, false, false, false, false, false]) := by decide
theorem witness_HistAddResult :
    (clusters.status.histReady = true ∧ (clusters.hist.index 0).isSome = true
      ∧ (clusters.hist.index 800).isSome = true ∧ (clusters.hist.index 801).isSome = false) ∧ clusters.hist.Sound :=
  ⟨by decide, clusters_sound.1⟩
/-- Both clauses of the factor: 65536 and 65535. -/
theorem witness_HistDecayResult :
    (clusters.status.histReady = true ∧ clusters.hist.decay.toNat = 65536 ∧ clusters.hist.bin 2 ≠ 0#32)
      ∧ clusters.hist.Sound ∧ { clusters.hist with decay := 65535#32 }.Sound := ⟨by decide, clusters_sound⟩
theorem witness_DecayReachesZero :
    (ready.status.histReady = true ∧ { clusters.hist with decay := 65535#32 }.decay.toNat ≤ 65535)
      ∧ { clusters.hist with decay := 65535#32 }.Sound := ⟨by decide, clusters_sound.2⟩
theorem witness_HistPeaksResult : (clusters.status.histReady = true ∧ clusters.hist.peak1 = 3
    ∧ clusters.hist.peak2 = 6) ∧ clusters.hist.Sound := ⟨by decide, clusters_sound.1⟩
theorem witness_HistThrResult :
    (clusters.status.histReady = true
      ∧ clusters.hist.nbins.toNat ≤ clusters.hist.maxVal.toNat - clusters.hist.minVal.toNat)
      ∧ clusters.hist.Sound := ⟨by decide, clusters_sound.1⟩
theorem witness_TwoClustersAreThePeaks :
    (twoBins.status.histReady = true ∧ 7 < twoBins.hist.nbins.toNat
      ∧ twoBins.hist.spread.toNat < 7 - 1 ∧ twoBins.hist.bin 1 ≠ 0#32 ∧ twoBins.hist.bin 7 ≠ 0#32
      ∧ ∀ k, k < twoBins.hist.nbins.toNat → k ≠ 1 → k ≠ 7 → twoBins.hist.bin k = 0#32) ∧ twoBins.hist.Sound :=
  ⟨by decide, twoBins_sound⟩
theorem witness_DecStepTone :
    (busy.status.histReady = true ∧ busy.queue = 0xFFFFFF88#32 :: [249#32]
      ∧ (0xFFFFFF88#32).toInt < 0 ∧ (0x80000000#32).toInt < 0) ∧ busy.hist.Sound := ⟨by decide, busy_sound⟩
/-- T_CUR is 150: the three gaps 149, 150 and 450. -/
theorem witness_DecStepGap :
    ready.status.histReady = true ∧ ({ ready with queue := [450#32] } : State).queue = 450#32 :: []
      ∧ 0 < (149#32).toInt ∧ (149#32).toNat < ready.hist.tCur.toNat ∧ ready.hist.tCur.toNat ≤ (150#32).toNat
      ∧ 3 * ready.hist.tCur.toNat ≤ (450#32).toNat := by decide
theorem witness_DecStepEmpty : ready.status.histReady = true ∧ ready.queue = [] := by decide
theorem witness_DecTimeoutArms :
    busy.status.histReady = true ∧ busy.queue ≠ []
      ∧ ({ ready with status := { ready.status with idleFlushed := false } } : State).queue = []
      ∧ ready.status.histReady = true ∧ ready.queue = [] ∧ ready.status.idleFlushed = true := by decide
theorem witness_StepKeepsTheInvariants : busy.Inv ∧ ∃ t, step busy = .next t :=
  ⟨busy_inv false, witness_EveryWordAnsweredOnce.2⟩
theorem witness_ResetMeetsTheInvariants : Memory.wf [(0, 1#8), (4095, 0xFF#8)] = true := by decide
theorem witness_ProducerLeavesConsumerState :
    (Instr.nstep 600#32).cmdClass = .producer ∧ ∃ t, exec (.nstep 600#32) busy = .next t :=
  ⟨rfl, completes (by decide)⟩
theorem witness_ConsumerLeavesProducerState :
    Instr.decStep.cmdClass = .consumer ∧ ∃ t, exec .decStep busy = .next t := ⟨rfl, completes (by decide)⟩
theorem witness_ProducerAndConsumerCommute :
    (Instr.nstep 600#32).cmdClass = .producer ∧ Instr.decStep.cmdClass = .consumer ∧ busy.queue ≠ []
      ∧ busy.queue.length ≤ 16 ∧ (after 0x3000000000000258#64 busy).status.qovf = false
      ∧ (execAll [.nstep 600#32, .decStep] busy).isSome = true
      ∧ (execAll [.decStep, .nstep 600#32] busy).isSome = true := by decide
/-- One witness for each of the three cases: a full queue with HIST_THR, an empty queue with FLT_STEP, and QOVF set. -/
theorem witness_ProducerAndConsumerCommuteOtherwise :
    (let full := { ready with queue := List.replicate 16 1#32 }
     let sticky := { busy with status := { busy.status with qovf := true } }
     (execAll [.evtSubmit 7#32, .histThr] full).isSome = true ∧ (execAll [.histThr, .evtSubmit 7#32] full).isSome = true
       ∧ (execAll [.fltStep 100#16, .decStep] ready).isSome = true
       ∧ (execAll [.decStep, .fltStep 100#16] ready).isSome = true
       ∧ sticky.queue ≠ [] ∧ sticky.queue.length ≤ 16 ∧ sticky.qdrop.toNat < 4294967295
       ∧ (after 0x3200000000000007#64 sticky).qdrop = sticky.qdrop
       ∧ (execAll [.evtSubmit 7#32, .decTimeout] sticky).isSome = true
       ∧ (execAll [.decTimeout, .evtSubmit 7#32] sticky).isSome = true)
      ∧ (Instr.evtSubmit 7#32).cmdClass = .producer ∧ (Instr.fltStep 100#16).cmdClass = .producer
      ∧ Instr.histThr.cmdClass = .consumer ∧ Instr.decTimeout.cmdClass = .consumer := by decide

end Sys2Proof.Tests
end

/-! ## STATUS: its layout, its reset value and write-one-to-clear (10_state.md R31 to R33) -/

namespace Sys2Proof.Machine

/-- The bit positions of STATUS: R32 for the status bits 4 to 0, R33 for the sticky flags 12 to 8. -/
theorem Status.getLsbD_toWord (st : Status) (k : Nat) : st.toWord.getLsbD k =
    if k = 0 then st.trkReady else if k = 1 then st.histReady else if k = 2 then st.edgeValid
    else if k = 3 then st.below else if k = 4 then st.idleFlushed else if k = 8 then st.qovf
    else if k = 9 then st.corr else if k = 10 then st.err else if k = 11 then st.illcmd
    else if k = 12 then st.fsat else false := by
  simp only [Status.toWord, BitVec.getLsbD_append, BitVec.getLsbD_ofBool, BitVec.getLsbD_zero]
  match k with
  | 0 | 1 | 2 | 3 | 4 | 5 | 6 | 7 | 8 | 9 | 10 | 11 | 12 => simp
  | n + 13 => simp

theorem Status.toWord_reset : Status.reset.toWord = 0x00000010#32 := by decide

/-- The accepting branch of WRREG (R132): all three checks passed, the register is written and OK answered. -/
theorem exec_wrreg_of_accepted {idx : Byte} {r : Reg} {v : Word} (hmapped : regAt idx = some r)
    (hwritable : r.readOnly = false) (hlegal : r.rejects v = false) (s : State) :
    exec (.wrreg idx v) s = .next ((s.writeReg r v).respond .ok 0x02#8 0#16 0#32) := by
  simp [exec, execWrreg, hmapped, hwritable, hlegal]

/-- STATUS is mapped, writable and rejects no value, so a WRREG to it always succeeds (R31). -/
theorem exec_wrreg_status (s : State) (v : Word) : exec (.wrreg 0x01#8 v) s =
    .next ({ s with status := s.status.clearSticky v }.respond .ok 0x02#8 0#16 0#32) :=
  exec_wrreg_of_accepted (r := .STATUS) rfl rfl rfl s

/-- Settles O15: the bit layout, the reset value, and the accepted WRREG, whose `clearSticky` is the stated update. -/
theorem statusRegister : Obligations.StatusRegister :=
  ⟨Status.getLsbD_toWord, fun _ => Status.toWord_reset, exec_wrreg_status⟩

end Sys2Proof.Machine

/-! ## The decoder and the opcode table accept the same words (30_encoding.md R100 to R108)

`wellFormedWord` masks the whole word by the rows of the table, `decode` reads the word's fields. They meet in the
formats of R101 to R104: each row of the table is an opcode with the mask of a format, and each arm of the decoder
checks the MBZ fields of that format. -/

namespace Sys2Proof

/-! ### A command word is its four fields -/

theorem packWord_fields (w : CmdWord) : packWord (opcField w) (idxField w) (immField w) (opField w) = w := by
  unfold packWord opcField idxField immField opField
  calc
    _ = (w.extractLsb' 48 16 ++ w.extractLsb' 32 16) ++ w.extractLsb' 0 32 := by
      rw [BitVec.extractLsb'_append_extractLsb'_eq_extractLsb' (by rfl)]
    _ = w.extractLsb' 32 32 ++ w.extractLsb' 0 32 := by
      rw [BitVec.extractLsb'_append_extractLsb'_eq_extractLsb' (by rfl)]
    _ = w.extractLsb' 0 64 := BitVec.extractLsb'_append_extractLsb'_eq_extractLsb' (by rfl)
    _ = w := BitVec.extractLsb'_eq_self

@[simp] theorem opcField_packWord (o i : Byte) (m : Half) (v : Word) : opcField (packWord o i m v) = o := by
  unfold opcField packWord
  rw [BitVec.extractLsb'_append_eq_of_le (by decide), BitVec.extractLsb'_append_eq_of_le (by decide)]
  exact BitVec.extractLsb'_append_eq_left

@[simp] theorem idxField_packWord (o i : Byte) (m : Half) (v : Word) : idxField (packWord o i m v) = i := by
  unfold idxField packWord
  rw [BitVec.extractLsb'_append_eq_of_le (by decide), BitVec.extractLsb'_append_eq_of_le (by decide)]
  exact BitVec.extractLsb'_append_eq_right

@[simp] theorem immField_packWord (o i : Byte) (m : Half) (v : Word) : immField (packWord o i m v) = m := by
  unfold immField packWord
  rw [BitVec.extractLsb'_append_eq_of_le (by decide)]
  exact BitVec.extractLsb'_append_eq_right

@[simp] theorem opField_packWord (o i : Byte) (m : Half) (v : Word) : opField (packWord o i m v) = v :=
  BitVec.extractLsb'_append_eq_right

theorem packWord_inj {o o' i i' : Byte} {m m' : Half} {v v' : Word} :
    packWord o i m v = packWord o' i' m' v' ↔ o = o' ∧ i = i' ∧ m = m' ∧ v = v' := by
  refine ⟨fun h => ⟨?_, ?_, ?_, ?_⟩, fun ⟨ho, hi, hm, hv⟩ => by rw [ho, hi, hm, hv]⟩
  · simpa using congrArg opcField h
  · simpa using congrArg idxField h
  · simpa using congrArg immField h
  · simpa using congrArg opField h

/-- Masking a word masks its fields. -/
theorem and_packWord (w : CmdWord) (o i : Byte) (m : Half) (v : Word) :
    w &&& packWord o i m v = packWord (opcField w &&& o) (idxField w &&& i) (immField w &&& m) (opField w &&& v) := by
  rw [← Laws.EncodeLegal.packWord_and, packWord_fields]

/-! ### The formats of R101 to R104 -/

/-- The formats by their MBZ fields: N, R of RDREG and RDBIN, R of WRREG, V, V of FLT_STEP, and B. -/
inductive CmdFormat where
  | n | r | rw | v | pcm | b

/-- The bits a format fixes: `opc` and the MBZ fields. -/
def CmdFormat.mask : CmdFormat → CmdWord
  | .n => packWord 0xFF#8 0xFF#8 0xFFFF#16 0xFFFFFFFF#32
  | .r => packWord 0xFF#8 0x00#8 0xFFFF#16 0xFFFFFFFF#32
  | .rw => packWord 0xFF#8 0x00#8 0xFFFF#16 0x00000000#32
  | .v => packWord 0xFF#8 0xFF#8 0xFFFF#16 0x00000000#32
  | .pcm => packWord 0xFF#8 0xFF#8 0xFFFF#16 (0xFFFF#16 ++ 0x0000#16)
  | .b => packWord 0xFF#8 0xFF#8 0x0000#16 0x00000000#32

/-- All MBZ fields of the format are zero in the word. -/
def CmdFormat.MbzZero (w : CmdWord) : CmdFormat → Prop
  | .n => idxField w = 0#8 ∧ immField w = 0#16 ∧ opField w = 0#32
  | .r => immField w = 0#16 ∧ opField w = 0#32
  | .rw => immField w = 0#16
  | .v => idxField w = 0#8 ∧ immField w = 0#16
  | .pcm => idxField w = 0#8 ∧ immField w = 0#16 ∧ (opField w).extractLsb' 16 16 = 0#16
  | .b => idxField w = 0#8

/-! ### The table in terms of the formats -/

/-- The row of a command with the given opcode and format. -/
def CmdFormat.row (f : CmdFormat) (mnemonic : String) (opc : Byte) : OpRow :=
  ⟨mnemonic, packWord opc 0#8 0#16 0#32, f.mask⟩

theorem opTable_eq_formatRows : opTable = [
    CmdFormat.n.row "NOP" 0x00#8, CmdFormat.r.row "RDREG" 0x01#8, CmdFormat.rw.row "WRREG" 0x02#8,
    CmdFormat.n.row "SRESET" 0x03#8, CmdFormat.r.row "RDBIN" 0x04#8, CmdFormat.pcm.row "FLT_STEP" 0x10#8,
    CmdFormat.v.row "NRM_STEP" 0x18#8, CmdFormat.n.row "TRK_INIT" 0x20#8, CmdFormat.v.row "TRK_UPDATE" 0x21#8,
    CmdFormat.n.row "TRK_MID" 0x22#8, CmdFormat.n.row "TRK_POS" 0x23#8, CmdFormat.n.row "TRK_NEG" 0x24#8,
    CmdFormat.v.row "EDG_UPDATE" 0x28#8, CmdFormat.v.row "NSTEP" 0x30#8, CmdFormat.b.row "PROC_BLOCK" 0x31#8,
    CmdFormat.v.row "EVT_SUBMIT" 0x32#8, CmdFormat.n.row "HIST_INIT" 0x40#8, CmdFormat.v.row "HIST_ADD" 0x41#8,
    CmdFormat.n.row "HIST_DECAY" 0x42#8, CmdFormat.n.row "HIST_PEAKS" 0x43#8, CmdFormat.n.row "HIST_THR" 0x44#8,
    CmdFormat.n.row "DEC_STEP" 0x50#8, CmdFormat.n.row "DEC_TIMEOUT" 0x51#8] := by decide

/-- Only the upper half of FLT_STEP's operand is checked (R103). -/
theorem and_highHalf_eq_zero_iff (x : Word) :
    x &&& (0xFFFF#16 ++ 0x0000#16) = 0#32 ↔ x.extractLsb' 16 16 = 0#16 := by
  have hx : x.extractLsb' 16 16 ++ x.extractLsb' 0 16 = x :=
    (BitVec.extractLsb'_append_extractLsb'_eq_extractLsb' (by rfl)).trans BitVec.extractLsb'_eq_self
  have hand : x &&& (0xFFFF#16 ++ 0x0000#16) = x.extractLsb' 16 16 ++ 0#16 := by
    conv_lhs => rw [← hx, BitVec.and_append, BitVec.and_zero]
    exact congrArg (· ++ 0#16) BitVec.and_allOnes
  rw [hand]
  exact BitVec.append_left_inj (s₂ := 0#16) 0#16

/-- A row's mask check, field by field: the row's opcode, and its format's MBZ fields zero (R106). -/
theorem CmdFormat.row_accepts_iff (f : CmdFormat) (mnemonic : String) (opc : Byte) (w : CmdWord) :
    (f.row mnemonic opc).accepts w = true ↔ (opcField w).toNat = opc.toNat ∧ f.MbzZero w := by
  have hopc (x : Byte) : x &&& 0xFF#8 = x := BitVec.and_allOnes
  have himm (x : Half) : x &&& 0xFFFF#16 = x := BitVec.and_allOnes
  have hop (x : Word) : x &&& 0xFFFFFFFF#32 = x := BitVec.and_allOnes
  rw [OpRow.accepts, beq_iff_eq, BitVec.toNat_inj]
  cases f <;>
    simp only [CmdFormat.row, CmdFormat.mask, and_packWord, packWord_inj, hopc, himm, hop, and_highHalf_eq_zero_iff,
      BitVec.and_zero, CmdFormat.MbzZero, true_and, and_true]

/-! ### The decoder in terms of the formats -/

@[simp] theorem decodeN_isSome (w : CmdWord) (i : Instr) : (decodeN w i).isSome = true ↔ CmdFormat.n.MbzZero w := by
  simp [decodeN, CmdFormat.MbzZero]

@[simp] theorem decodeR_isSome (w : CmdWord) (i : Byte → Instr) :
    (decodeR w i).isSome = true ↔ CmdFormat.r.MbzZero w := by
  simp [decodeR, CmdFormat.MbzZero]

@[simp] theorem decodeRW_isSome (w : CmdWord) (i : Byte → Word → Instr) :
    (decodeRW w i).isSome = true ↔ CmdFormat.rw.MbzZero w := by
  simp [decodeRW, CmdFormat.MbzZero]

@[simp] theorem decodeV_isSome (w : CmdWord) (i : Word → Instr) :
    (decodeV w i).isSome = true ↔ CmdFormat.v.MbzZero w := by
  simp [decodeV, CmdFormat.MbzZero]

@[simp] theorem decodePcm_isSome (w : CmdWord) (i : Half → Instr) :
    (decodePcm w i).isSome = true ↔ CmdFormat.pcm.MbzZero w := by
  simp [decodePcm, CmdFormat.MbzZero]

@[simp] theorem decodeB_isSome (w : CmdWord) (i : Half → Word → Instr) :
    (decodeB w i).isSome = true ↔ CmdFormat.b.MbzZero w := by
  simp [decodeB, CmdFormat.MbzZero]

/-- The words the table accepts are the words the decoder reads (R106, R108). -/
theorem wellFormedWord_iff_decode (w : CmdWord) : wellFormedWord w = true ↔ (decode w).isSome = true := by
  simp only [wellFormedWord, opTable_eq_formatRows, List.any_cons, List.any_nil, Bool.or_eq_true,
    CmdFormat.row_accepts_iff, BitVec.toNat_ofNat]
  unfold decode
  split
  case h_24 =>
    -- An opcode outside the map is no row's, and the decoder refuses it.
    simp_all
  all_goals
    -- Only one row has the opcode, and it checks the MBZ fields of the format the decoder's arm checks.
    next hopc => simp [hopc]

end Sys2Proof

namespace Sys2Proof.Machine

/-! ## A command word is run or raises ILLEGAL_CMD (30_encoding.md R108) -/

theorem step_command {s : State} {w : CmdWord} {rest : List HostMove} (h : s.input = .command w :: rest) :
    step s = runWord w { s with input := rest } := by
  simp only [step, h, runMove]

theorem runWord_of_decode {w : CmdWord} {i : Instr} (h : decode w = some i) (s : State) : runWord w s = exec i s := by
  simp only [runWord, h]

theorem runWord_of_decode_none {w : CmdWord} (h : decode w = none) (s : State) :
    runWord w s = .next (raiseIllegal w s) := by
  simp only [runWord, h]

/-- Settles O2: the table's check is the decoder's, and a word the decoder refuses is raised. -/
theorem legalWordRunsIllegalWordRaises : Obligations.LegalWordRunsIllegalWordRaises := by
  intro s w rest hinput
  rw [step_command hinput]
  refine ⟨fun hlegal => ?_, fun hillegal => ?_⟩
  · obtain ⟨i, hi⟩ := Option.isSome_iff_exists.1 ((wellFormedWord_iff_decode w).1 hlegal)
    exact ⟨i, hi, runWord_of_decode hi _⟩
  · have hnone : decode w = none := by
      simpa [hillegal] using wellFormedWord_iff_decode w
    exact runWord_of_decode_none hnone _

end Sys2Proof.Machine

namespace Sys2Proof.Machine

/-! ## The filter chain in integers (41_filter_chain.md R150 to R152)

Every word the chain computes is read back as the integer the rule names, and a stage clips exactly when that integer
differs from its argument. -/

theorem sat32Clips_eq_decide_ne (z : Int) : sat32Clips z = decide (sat32 z ≠ z) := by
  rw [sat32Clips, sat32_eq, decide_eq_decide]
  omega

/-- The conversion to Q23.8 is exact (R150). -/
theorem pcmWord_toInt (pcm : Half) : (pcmWord pcm).toInt = pcm.toInt * 256 := by
  have hrange := half_toInt_range pcm
  exact toReg_toInt (by simp only [Config.pcmScale]; omega) (by simp only [Config.pcmScale]; omega)

theorem Biquad.out_toInt (f : Biquad) (x : Word) : (f.out x).toInt = sat32 (asr (f.acc x) Config.cfrac) :=
  toReg_sat32_toInt _

theorem Biquad.clips_eq (f : Biquad) (x : Word) :
    f.clips x = decide ((f.out x).toInt ≠ asr (f.acc x) Config.cfrac) := by
  rw [Biquad.out_toInt]
  exact sat32Clips_eq_decide_ne _

theorem rectify_toInt (y : Word) : (rectify y).toInt = sat32 |y.toInt| := toReg_sat32_toInt _

theorem rectifyClips_eq (y : Word) : rectifyClips y = decide ((rectify y).toInt ≠ |y.toInt|) := by
  rw [rectify_toInt]
  exact sat32Clips_eq_decide_ne _

/-- FSAT is set when one of the three saturations changes its argument (R151, R152). -/
theorem State.chainClips_eq (s : State) (pcm : Half) :
    s.chainClips pcm = decide ((s.bandOut pcm).toInt ≠ asr (s.bpf.acc (pcmWord pcm)) Config.cfrac
      ∨ (rectify (s.bandOut pcm)).toInt ≠ |(s.bandOut pcm).toInt|
      ∨ (s.envelope pcm).toInt ≠ asr (s.lpf.acc (rectify (s.bandOut pcm))) Config.cfrac) := by
  rw [State.chainClips, Biquad.clips_eq, rectifyClips_eq, Biquad.clips_eq, Bool.or_assoc, Bool.decide_or,
    Bool.decide_or, State.envelope, State.bandOut]

/-- FLT_STEP's whole next state, each stage's word by its name (R150, R151, R153). -/
theorem exec_fltStep (pcm : Half) (s : State) : exec (.fltStep pcm) s = .next { s with
    bpf := { s.bpf with x1 := pcmWord pcm, x2 := s.bpf.x1, y1 := s.bandOut pcm, y2 := s.bpf.y1 }
    lpf := { s.lpf with x1 := rectify (s.bandOut pcm), x2 := s.lpf.x1, y1 := s.envelope pcm, y2 := s.lpf.y1 }
    status := { s.status with fsat := s.status.fsat || s.chainClips pcm }
    rsp := s.rsp ++ [responseWord .ok 0x10#8 0#16 (s.envelope pcm)] } := rfl

/-- A word is the register of an integer when it reads back as that integer. -/
theorem eq_ofInt_of_toInt_eq {w : Word} {z : Int} (h : w.toInt = z) : w = BitVec.ofInt 32 z := by
  rw [← h, BitVec.ofInt_toInt]

/-- Settles O20: stage by stage, the chain's words read back as the integers x, y, r, e of the rules. -/
theorem fltStepComputesTheChain : Obligations.FltStepComputesTheChain := by
  intro pcm s clamp x u y r v e
  have hx : (pcmWord pcm).toInt = x := pcmWord_toInt pcm
  have hu : asr (s.bpf.acc (pcmWord pcm)) Config.cfrac = u := by rw [asr, Biquad.acc, hx]
  have hy : (s.bandOut pcm).toInt = y := by rw [State.bandOut, Biquad.out_toInt, hu, sat32_eq]
  have hr : (rectify (s.bandOut pcm)).toInt = r := by rw [rectify_toInt, hy, sat32_eq]
  have hv : asr (s.lpf.acc (rectify (s.bandOut pcm))) Config.cfrac = v := by rw [asr, Biquad.acc, hr]
  have he : (s.envelope pcm).toInt = e := by rw [State.envelope, Biquad.out_toInt, hv, sat32_eq]
  rw [exec_fltStep, State.chainClips_eq, hu, hy, hr, hv, he, ← eq_ofInt_of_toInt_eq hx, ← eq_ofInt_of_toInt_eq hy,
    ← eq_ofInt_of_toInt_eq hr, ← eq_ofInt_of_toInt_eq he]

end Sys2Proof.Machine

namespace Sys2Proof.Machine

/-! ## The rescale of a normalized sample (42_normalizer.md R172)

The lower clamp never acts on a value at or above SMIN, and the upper clamp acts from SMAX on. -/

/-- The numerator is not negative from SMIN on, and the divisor is positive (R172). -/
theorem Normalizer.quotient_nonneg {n : Normalizer} {e : Word} (hrange : n.smin.toInt < n.smax.toInt)
    (hmin : n.smin.toInt ≤ e.toInt) : 0 ≤ n.quotient e :=
  Int.ediv_nonneg (mul_nonneg (by omega) (by positivity)) (by omega)

/-- The quotient reaches 2^30 exactly when the numerator's `e - SMIN` reaches the divisor `SMAX - SMIN`. -/
theorem Normalizer.normCeil_lt_quotient_iff {n : Normalizer} (hrange : n.smin.toInt < n.smax.toInt) (e : Word) :
    Config.normCeil < n.quotient e ↔ n.smax.toInt ≤ e.toInt := by
  have hdivisor : 0 < n.smax.toInt - n.smin.toInt := by omega
  calc Config.normCeil < n.quotient e
    _ ↔ 2 ^ Config.normBits ≤ n.quotient e := by simp only [Config.normCeil, Config.normBits]; omega
    _ ↔ 2 ^ Config.normBits * (n.smax.toInt - n.smin.toInt)
          ≤ (e.toInt - n.smin.toInt) * 2 ^ Config.normBits := Int.le_ediv_iff_mul_le hdivisor
    _ ↔ n.smax.toInt ≤ e.toInt := by simp only [Config.normBits]; omega

/-- Where the quotient is not negative the rescale is its minimum with NORM_CEIL (R172). -/
theorem Normalizer.rescale_toNat {n : Normalizer} {e : Word} (hnonneg : 0 ≤ n.quotient e) :
    ((n.rescale e).toNat : Int) = min Config.normCeil (n.quotient e) := by
  unfold Normalizer.rescale
  split
  case isTrue habove =>
    rw [min_eq_left habove.le]
    decide
  case isFalse hle =>
    have hle : n.quotient e ≤ 1073741823 := not_lt.1 hle
    rw [if_neg (not_lt.2 hnonneg), min_eq_right hle]
    exact toReg_toNat hnonneg (by omega)

/-- Settles O23: the quotient is not negative, and for a value up to SMAX it passes NORM_CEIL only at SMAX. -/
theorem rescaleFollowsTheRule : Obligations.RescaleFollowsTheRule := by
  intro n e hrange hmin hmax
  refine ⟨Normalizer.rescale_toNat (Normalizer.quotient_nonneg hrange hmin), ?_⟩
  exact (Normalizer.normCeil_lt_quotient_iff hrange e).trans hmax.ge_iff_eq

end Sys2Proof.Machine

namespace Sys2Proof.Machine

/-! ## The sample operand's check (43_threshold_tracker.md R192) -/

theorem sampleLegal_iff (sample : Word) : sampleLegal sample = true ↔ sample.toNat ≤ 0x7FFFFFFF := by
  rw [sampleLegal, decide_eq_true_iff]

theorem sampleLegal_eq_false_iff (sample : Word) : sampleLegal sample = false ↔ 0x7FFFFFFF < sample.toNat := by
  rw [sampleLegal, decide_eq_false_iff_not, not_le]

section
variable {sample : Word} {s : State}

theorem exec_trkUpdate_of_illegalSample (hready : s.status.trkReady = true) (hsample : sampleLegal sample = false) :
    exec (.trkUpdate sample) s = .next (s.raise .invalidArg 0x21#8) := by
  simp [exec, execTrkUpdate, hready, hsample]

theorem exec_edgUpdate_of_illegalSample (hready : s.status.trkReady = true) (hsample : sampleLegal sample = false) :
    exec (.edgUpdate sample) s = .next (s.raise .invalidArg 0x28#8) := by
  simp [exec, execEdgUpdate, hready, hsample]

theorem exec_nstep_of_illegalSample (hready : s.status.trkReady = true) (hsample : sampleLegal sample = false) :
    exec (.nstep sample) s = .next (s.raise .invalidArg 0x30#8) := by
  simp [exec, execNstep, hready, hsample]

/-- TRK_UPDATE past both checks: the update, and the midpoint after it (R196). -/
theorem exec_trkUpdate_of_legalSample (hready : s.status.trkReady = true) (hsample : sampleLegal sample = true) :
    exec (.trkUpdate sample) s = .next
      ((s.trkUpdate sample.toNat).respond .ok 0x21#8 0#16 (toReg (s.trk.update sample.toNat).mid)) := by
  simp [exec, execTrkUpdate, hready, hsample]

end

/-- Settles O29: the sample check of each command raises INVALID_ARG, and a rescaled value is at most NORM_CEIL. -/
theorem sampleAboveRangeRejected : Obligations.SampleAboveRangeRejected := by
  refine ⟨fun sample s hready habove => ?_, Normalizer.rescale_le⟩
  have hillegal : sampleLegal sample = false := (sampleLegal_eq_false_iff sample).2 habove
  exact ⟨exec_trkUpdate_of_illegalSample hready hillegal, exec_edgUpdate_of_illegalSample hready hillegal,
    exec_nstep_of_illegalSample hready hillegal⟩

/-! ## The tracker's update in integers (43_threshold_tracker.md R194, R195)

Step 1 is `Tracker.widen_toInt`. Step 2 is exact where the decayed ends fit s32, and step 3 sorts the two ends. -/

/-- The lower end after step 2, before it is narrowed to its register (R194). -/
def Tracker.decayedMin (t : Tracker) (x : Int) : Int :=
  if t.minRange.toNat ≤ t.range ∧ t.mid < x then t.tmin.toInt + t.decayStep.toNat else t.tmin.toInt

/-- The upper end after step 2, before it is narrowed to its register (R194). -/
def Tracker.decayedMax (t : Tracker) (x : Int) : Int :=
  if t.minRange.toNat ≤ t.range ∧ x < t.mid then t.tmax.toInt - t.decayStep.toNat else t.tmax.toInt

/-- Step 2 as integers: at most one end moves, and a moved end that fits s32 is kept by its register (R194). -/
theorem Tracker.shrink_toInt {t : Tracker} {x : Int} (hmin : t.decayedMin x ≤ 2147483647)
    (hmax : -2147483648 ≤ t.decayedMax x) :
    (t.shrink x).tmin.toInt = t.decayedMin x ∧ (t.shrink x).tmax.toInt = t.decayedMax x := by
  have rmin := word_toInt_range t.tmin
  have rmax := word_toInt_range t.tmax
  rcases t.shrink_cases x with ⟨hwide, hx, h⟩ | ⟨hwide, hx, h⟩ | ⟨hstay, h⟩ <;> rw [h]
  · have hlo : t.decayedMin x = t.tmin.toInt + t.decayStep.toNat := if_pos ⟨hwide, hx⟩
    have hhi : t.decayedMax x = t.tmax.toInt := if_neg (by omega)
    exact ⟨(toReg_toInt (by omega) (by omega)).trans hlo.symm, hhi.symm⟩
  · have hlo : t.decayedMin x = t.tmin.toInt := if_neg (by omega)
    have hhi : t.decayedMax x = t.tmax.toInt - t.decayStep.toNat := if_pos ⟨hwide, hx⟩
    exact ⟨hlo.symm, (toReg_toInt (by omega) (by omega)).trans hhi.symm⟩
  · have hlo : t.decayedMin x = t.tmin.toInt := if_neg (by omega)
    have hhi : t.decayedMax x = t.tmax.toInt := if_neg (by omega)
    exact ⟨hlo.symm, hhi.symm⟩

/-- Step 3 as integers: the ends in order (R195). -/
theorem Tracker.restore_toInt (t : Tracker) :
    t.restore.tmin.toInt = min t.tmin.toInt t.tmax.toInt ∧ t.restore.tmax.toInt = max t.tmin.toInt t.tmax.toInt := by
  unfold Tracker.restore
  split
  case isTrue hcrossed =>
    have hlt : t.tmax.toInt < t.tmin.toInt := of_decide_eq_true hcrossed
    exact ⟨(min_eq_right hlt.le).symm, (max_eq_left hlt.le).symm⟩
  case isFalse hordered =>
    have hle : t.tmin.toInt ≤ t.tmax.toInt := by simpa [Tracker.crossed] using hordered
    exact ⟨(min_eq_left hle).symm, (max_eq_right hle).symm⟩

/-- The three steps as integers, where the decayed ends of the widened range fit s32 (R194, R195). -/
theorem Tracker.update_toInt {t : Tracker} {x : Int} (hmin : (t.widen x).decayedMin x ≤ 2147483647)
    (hmax : -2147483648 ≤ (t.widen x).decayedMax x) :
    (t.update x).tmin.toInt = min ((t.widen x).decayedMin x) ((t.widen x).decayedMax x)
      ∧ (t.update x).tmax.toInt = max ((t.widen x).decayedMin x) ((t.widen x).decayedMax x)
      ∧ t.corrects x = decide ((t.widen x).decayedMax x < (t.widen x).decayedMin x) := by
  obtain ⟨htmin, htmax⟩ := Tracker.shrink_toInt hmin hmax
  rw [← htmin, ← htmax]
  exact ⟨(Tracker.restore_toInt _).1, (Tracker.restore_toInt _).2, rfl⟩

/-- An update is the tracker with its two ends replaced by the given integers, when they are what the ends read as. -/
theorem Tracker.update_eq {t : Tracker} {x lo hi : Int} (hmin : (t.update x).tmin.toInt = lo)
    (hmax : (t.update x).tmax.toInt = hi) :
    t.update x = { t with tmin := BitVec.ofInt 32 lo, tmax := BitVec.ofInt 32 hi } := by
  obtain ⟨hstep, hrange⟩ := t.update_config x
  rw [← eq_ofInt_of_toInt_eq hmin, ← eq_ofInt_of_toInt_eq hmax, ← hstep, ← hrange]

/-- Settles O27: the widened ends are `lo` and `hi`, so the decayed ends are `lo2` and `hi2`, and step 3 sorts them. -/
theorem trkUpdateResult : Obligations.TrkUpdateResult := by
  intro sample s hready hsample x step lo hi wide mid lo2 hi2 hlo2 hhi2 lo3 hi3
  obtain ⟨hwmin, hwmax, hwstep, hwrange⟩ := s.trk.widen_toInt (x := x) (by omega) (by omega)
  have hdmin : (s.trk.widen x).decayedMin x = lo2 := by
    simp only [Tracker.decayedMin, Tracker.range, Tracker.mid, asr, pow_one, hwmin, hwmax, hwstep, hwrange, lo2, wide,
      decide_eq_true_eq, mid, lo, hi, step]
  have hdmax : (s.trk.widen x).decayedMax x = hi2 := by
    simp only [Tracker.decayedMax, Tracker.range, Tracker.mid, asr, pow_one, hwmin, hwmax, hwstep, hwrange, hi2, wide,
      decide_eq_true_eq, mid, lo, hi, step]
  obtain ⟨hmin, hmax, hcorr⟩ := Tracker.update_toInt (hdmin.trans_le hlo2) (hhi2.trans_eq hdmax.symm)
  rw [hdmin, hdmax] at hmin hmax hcorr
  have hmid : (s.trk.update x).mid = lo3 + (hi3 - lo3) / 2 := by
    rw [Tracker.mid, Tracker.range, asr, pow_one, hmin, hmax]
  rw [exec_trkUpdate_of_legalSample hready ((sampleLegal_iff sample).2 hsample), hmid, State.trkUpdate, hcorr,
    Tracker.update_eq hmin hmax]
  rfl

end Sys2Proof.Machine

namespace Sys2Proof.Machine

/-! ## The edge detector's transitions (44_edge_detector.md R221, R222)

`State.edgeUpdate_cases` says which state each branch leaves; here is the event each branch returns. -/

theorem Tracker.pos_eq (t : Tracker) : t.pos = t.tmin.toInt + (t.tmax.toInt - t.tmin.toInt) / 2 := rfl

theorem Tracker.neg_eq (t : Tracker) : t.neg = t.tmin.toInt + (t.tmax.toInt - t.tmin.toInt) / 4 := rfl

section
variable {s : State} {x : Int}

theorem State.edgeRises_iff :
    s.edgeRises x = true ↔ s.status.edgeValid = true ∧ s.status.below = true ∧ s.trk.pos < x := by
  simp [State.edgeRises, and_assoc]

theorem State.edgeFalls_iff :
    s.edgeFalls x = true ↔ s.status.edgeValid = true ∧ s.status.below = false ∧ x < s.trk.neg := by
  simp [State.edgeFalls, and_assoc]

theorem State.edgeEvent_of_rises (hrises : s.edgeRises x = true) :
    s.edgeEvent x = BitVec.ofInt 32 (min (s.edgeCount.toNat : Int) 2147483647) := by
  rw [State.edgeEvent, if_pos hrises, Nat.cast_min]
  rfl

/-- The detector falls only from Above, so a sample never rises and falls at once. -/
theorem State.edgeEvent_of_falls (hfalls : s.edgeFalls x = true) :
    s.edgeEvent x = BitVec.ofInt 32 (-min (s.edgeCount.toNat : Int) 2147483648) := by
  obtain ⟨-, habove, -⟩ := edgeFalls_iff.1 hfalls
  have hrises : ¬ s.edgeRises x = true := by simp [edgeRises_iff, habove]
  rw [State.edgeEvent, if_neg hrises, if_pos hfalls, Nat.cast_min]
  rfl

theorem State.edgeEvent_of_stays (hrises : ¬ s.edgeRises x = true) (hfalls : ¬ s.edgeFalls x = true) :
    s.edgeEvent x = 0#32 :=
  (if_neg hrises).trans (if_neg hfalls)

/-- The first sample is no transition, so it returns no event (R221). -/
theorem State.edgeEvent_of_first (hfirst : s.status.edgeValid = false) : s.edgeEvent x = 0#32 :=
  State.edgeEvent_of_stays (by simp [edgeRises_iff, hfirst]) (by simp [edgeFalls_iff, hfirst])

/-- EDG_UPDATE past both checks: the detector's state, and its event as the result (R224). -/
theorem exec_edgUpdate_of_legalSample {sample : Word} (hready : s.status.trkReady = true)
    (hsample : sampleLegal sample = true) : exec (.edgUpdate sample) s = .next
      ((s.edgeUpdate sample.toNat).respond .ok 0x28#8 0#16 (s.edgeEvent sample.toNat)) := by
  simp [exec, execEdgUpdate, hready, hsample]

end

/-- Settles O34: with EDGE_VALID one of the three later branches is taken, each with its state and its event. -/
theorem edgLaterSample : Obligations.EdgLaterSample := by
  intro sample s hready hsample hvalid x pos neg
  have hposEq : s.trk.pos = pos := s.trk.pos_eq
  have hnegEq : s.trk.neg = neg := s.trk.neg_eq
  have hrises : s.edgeRises x = true ↔ s.status.below = true ∧ pos < x := by
    rw [State.edgeRises_iff, hposEq, and_iff_right hvalid]
  have hfalls : s.edgeFalls x = true ↔ s.status.below = false ∧ x < neg := by
    rw [State.edgeFalls_iff, hnegEq, and_iff_right hvalid]
  rw [exec_edgUpdate_of_legalSample hready ((sampleLegal_iff sample).2 hsample)]
  have hcases := s.edgeUpdate_cases x
  rw [hposEq, hnegEq] at hcases
  rcases hcases with ⟨hfirst, -⟩ | ⟨-, hbelow, hpos, hstate⟩ | ⟨-, habove, hneg, hstate⟩ |
    ⟨-, hnorise, hnofall, hstate⟩
  case inl => simp [hvalid] at hfirst
  case inr.inl =>
    have hrise : s.status.below = true ∧ pos < x := ⟨hbelow, hpos⟩
    rw [if_pos hrise, hstate, State.edgeEvent_of_rises (hrises.2 hrise)]
    rfl
  case inr.inr.inl =>
    have hnorise : ¬ (s.status.below = true ∧ pos < x) := by simp [habove]
    have hfall : s.status.below = false ∧ x < neg := ⟨habove, hneg⟩
    rw [if_neg hnorise, if_pos hfall, hstate, State.edgeEvent_of_falls (hfalls.2 hfall)]
    rfl
  case inr.inr.inr =>
    rw [if_neg hnorise, if_neg hnofall, hstate,
      State.edgeEvent_of_stays (mt hrises.1 hnorise) (mt hfalls.1 hnofall), satu32_eq, min_comm]
    rfl

/-- Settles O33: without EDGE_VALID only the first branch of the detector is left, and a sample is at most MID_INIT
exactly when it is 0. -/
theorem edgFirstSample : Obligations.EdgFirstSample := by
  intro sample s hready hsample hfirst
  have hbelow : decide ((sample.toNat : Int) ≤ 0) = decide (sample.toNat = 0) := by
    rw [decide_eq_decide]
    omega
  rw [exec_edgUpdate_of_legalSample hready ((sampleLegal_iff sample).2 hsample), State.edgeEvent_of_first hfirst]
  rcases s.edgeUpdate_cases sample.toNat with ⟨-, hstate⟩ | ⟨hvalid, -⟩ | ⟨hvalid, -⟩ | ⟨hvalid, -⟩
  case inl =>
    rw [hstate, hbelow]
    rfl
  all_goals simp [hfirst] at hvalid

end Sys2Proof.Machine

namespace Sys2Proof.Machine

/-! ## The fused step (45_block_and_queue.md R240 to R242)

The detector of NSTEP reads the state `trkUpdate` leaves; EDG_UPDATE after TRK_UPDATE reads that state with TRK_UPDATE's
response added. No part of the detector reads a response, so both find the same event and leave the same state. -/

section
variable {s : State} {x : Int}

theorem State.edgeEvent_respond (c : StatusCode) (opc : Byte) (aux : Half) (r : Word) :
    (s.respond c opc aux r).edgeEvent x = s.edgeEvent x := rfl

theorem State.edgeUpdate_respond (c : StatusCode) (opc : Byte) (aux : Half) (r : Word) :
    (s.respond c opc aux r).edgeUpdate x = (s.edgeUpdate x).respond c opc aux r := by
  have hrises : (s.respond c opc aux r).edgeRises x = s.edgeRises x := rfl
  have hfalls : (s.respond c opc aux r).edgeFalls x = s.edgeFalls x := rfl
  simp only [State.edgeUpdate, State.respond_status, hrises, hfalls]
  split_ifs <;> rfl

/-- What the tracker and the detector leave for the push and the response to extend: neither writes the queue, QDROP or
a response. -/
theorem State.edgeUpdate_trkUpdate_keeps :
    ((s.trkUpdate x).edgeUpdate x).queue = s.queue ∧ ((s.trkUpdate x).edgeUpdate x).qdrop = s.qdrop
      ∧ ((s.trkUpdate x).edgeUpdate x).rsp = s.rsp := by
  obtain ⟨below, valid, count, hstate⟩ := (s.trkUpdate x).edgeUpdate_frame x
  rw [hstate]
  exact ⟨rfl, rfl, rfl⟩

/-- An event is dropped exactly when there is one and the queue is full (R241). -/
theorem State.nstepDrops_iff : s.nstepDrops x = true ↔ s.nstepEvent x ≠ 0#32 ∧ s.queue.length = 16 := by
  rw [State.nstepDrops, Bool.and_eq_true, decide_eq_true_iff, State.queueFull_iff]

/-- NSTEP past both checks: the fused step, its event, and whether the event was dropped (R242). -/
theorem exec_nstep_of_legalSample {sample : Word} (hready : s.status.trkReady = true)
    (hsample : sampleLegal sample = true) : exec (.nstep sample) s = .next
      ((s.nstepCore sample.toNat).respond .ok 0x30#8 (if s.nstepDrops sample.toNat then 1#16 else 0#16)
        (s.nstepEvent sample.toNat)) := by
  simp [exec, execNstep, hready, hsample]

end

/-- Settles O36: TRK_UPDATE and EDG_UPDATE in a row leave the state the push of NSTEP starts from, up to the responses;
the push then has its three outcomes: no event, an event for a full queue, an event for a queue with room. -/
theorem nstepIsTrackThenEdgeThenPush : Obligations.NstepIsTrackThenEdgeThenPush := by
  intro sample s hready hsample
  have hlegal : sampleLegal sample = true := (sampleLegal_iff sample).2 hsample
  obtain ⟨hqueue, hqdrop, hrsp⟩ := s.edgeUpdate_trkUpdate_keeps (x := sample.toNat)
  refine ⟨_, _, s.nstepEvent sample.toNat, exec_trkUpdate_of_legalSample hready hlegal,
    exec_edgUpdate_of_legalSample hready hlegal, ?_, ?_⟩
  · rw [State.edgeUpdate_respond, State.edgeEvent_respond, State.respond_rsp, State.respond_rsp, hrsp]
    rfl
  · rw [exec_nstep_of_legalSample hready hlegal, State.edgeUpdate_respond, ← hrsp, ← hqdrop]
    rcases s.nstepCore_cases sample.toNat with ⟨hnone, hcore⟩ | ⟨hevent, hcore⟩
    case inl =>
      have hkept : ¬ s.nstepDrops sample.toNat = true := by simp [State.nstepDrops_iff, hnone]
      rw [if_neg hkept, if_pos hnone, hcore, hnone]
      rfl
    case inr =>
      rw [if_neg hevent, hcore]
      rcases State.queuePush_cases ((s.trkUpdate sample.toNat).edgeUpdate sample.toNat) (s.nstepEvent sample.toNat)
        with ⟨hroom, hpush⟩ | ⟨hfull, hpush⟩
      case inl =>
        rw [hqueue] at hroom hpush
        have hkept : ¬ s.nstepDrops sample.toNat = true := by simp [State.nstepDrops_iff, hroom]
        rw [if_neg hkept, if_neg hroom, hpush]
        rfl
      case inr =>
        rw [hqueue] at hfull
        rw [if_pos (State.nstepDrops_iff.2 ⟨hevent, hfull⟩), if_pos hfull, hpush, satu32_eq, min_comm]
        rfl

end Sys2Proof.Machine

namespace Sys2Proof.Machine

/-! ## The two peaks of the histogram (46_histogram.md R264)

Both peaks are one search over the used bins with another set of accepted indices: all of them for the first peak, those
outside the exclusion window for the second. HIST_INIT's check leaves room outside any window, so both searches find an
index. -/

/-- `p` is the smallest of the accepted used bins with a maximal count: what R264 asks of each peak. -/
def Histogram.IsFirstMax (h : Histogram) (accept : Nat → Bool) (p : Nat) : Prop :=
  p < h.nbins.toNat ∧ accept p = true
    ∧ (∀ i, i < h.nbins.toNat → accept i = true → (h.bin i).toNat ≤ (h.bin p).toNat)
    ∧ (∀ i, i < p → accept i = true → (h.bin i).toNat < (h.bin p).toNat)

section
variable {h : Histogram}

theorem Histogram.getElem_usedBins {i : Nat} (hi : i < (h.bins.take h.nbins.toNat).length) :
    (h.bins.take h.nbins.toNat)[i] = h.bin i := by
  rw [List.length_take, lt_min_iff] at hi
  rw [List.getElem_take, Histogram.bin, List.getD_eq_getElem _ _ hi.2]

/-- The search over the used bins finds the first maximum as soon as one used bin is accepted. -/
theorem Histogram.exists_firstMax {accept : Nat → Bool} {m : Nat} (hcells : h.nbins.toNat ≤ h.bins.length)
    (hm : m < h.nbins.toNat) (haccept : accept m = true) :
    ∃ p v, firstMax accept 0 (h.bins.take h.nbins.toNat) = some (p, v) ∧ h.IsFirstMax accept p := by
  have hlength : (h.bins.take h.nbins.toNat).length = h.nbins.toNat := List.length_take_of_le hcells
  cases hsearch : firstMax accept 0 (h.bins.take h.nbins.toNat) with
  | none =>
    have hrejected := firstMax_none hsearch m (hm.trans_eq hlength.symm)
    simp [haccept] at hrejected
  | some found =>
    obtain ⟨p, v⟩ := found
    obtain ⟨j, hp, ⟨hj, hv⟩, hacc, hmax, hfirst⟩ := firstMax_some hsearch
    simp only [Nat.zero_add, hlength, Histogram.getElem_usedBins] at hp hj hv hmax hfirst
    subst hp hv
    exact ⟨p, _, rfl, hj, hacc, hmax, fun i hi => hfirst i (hi.trans hj) hi⟩

theorem Histogram.outside_iff {p i : Nat} :
    h.outside p i = true ↔ h.spread.toNat < ((i : Int) - (p : Int)).natAbs :=
  decide_eq_true_iff

/-- Of the two outermost bins one lies outside the window around any used bin, as `2 * spread + 2 ≤ nbins` (R261). -/
theorem Histogram.exists_outside {p : Nat} (hroom : 2 * h.spread.toNat + 2 ≤ h.nbins.toNat)
    (hp : p < h.nbins.toNat) : ∃ m, m < h.nbins.toNat ∧ h.outside p m = true := by
  by_cases hlow : h.spread.toNat < p
  · exact ⟨0, by omega, Histogram.outside_iff.2 (by omega)⟩
  · exact ⟨h.nbins.toNat - 1, by omega, Histogram.outside_iff.2 (by omega)⟩

theorem Histogram.peak1_isFirstMax (hsound : h.Sound) : h.IsFirstMax (fun _ => true) h.peak1 := by
  obtain ⟨hlength, hone, hbins, -⟩ := hsound
  obtain ⟨p, v, hsearch, hp⟩ := h.exists_firstMax (accept := fun _ => true) (by omega) hone rfl
  rwa [Histogram.peak1, hsearch]

theorem Histogram.peak2_isFirstMax (hsound : h.Sound) : h.IsFirstMax (h.outside h.peak1) h.peak2 := by
  obtain ⟨hpeak1, -⟩ := Histogram.peak1_isFirstMax hsound
  obtain ⟨hlength, -, hbins, -, -, -, hroom⟩ := hsound
  obtain ⟨m, hm, hout⟩ := Histogram.exists_outside hroom hpeak1
  obtain ⟨p, v, hsearch, hp⟩ := h.exists_firstMax (by omega) hm hout
  rwa [Histogram.peak2, hsearch]

/-- The model's two searches are the peaks of R264. -/
theorem Histogram.isPeaks (hsound : h.Sound) : h.IsPeaks h.peak1 h.peak2 := by
  obtain ⟨hlt1, -, hmax1, hfirst1⟩ := Histogram.peak1_isFirstMax hsound
  obtain ⟨hlt2, hout2, hmax2, hfirst2⟩ := Histogram.peak2_isFirstMax hsound
  simp only [Histogram.outside_iff] at hout2 hmax2 hfirst2
  exact ⟨hlt1, hlt2, fun i hi => hmax1 i hi rfl, fun i hi => hfirst1 i hi rfl, hout2, hmax2, hfirst2⟩

end

/-- HIST_PEAKS past its check: the first peak, and the pair ordered by index (R268). -/
theorem exec_histPeaks_of_ready {s : State} (hready : s.status.histReady = true) : exec .histPeaks s = .next
    (s.respond .ok 0x43#8 (BitVec.ofNat 16 s.hist.peak1) (toRegU (s.hist.highPeak * 65536 + s.hist.lowPeak))) := by
  simp [exec, execHistPeaks, hready]

/-- Settles O45: the peaks are the model's two searches, and `lowPeak` and `highPeak` are their minimum and maximum. -/
theorem histPeaksResult : Obligations.HistPeaksResult := by
  intro s hready hsound
  exact ⟨s.hist.peak1, s.hist.peak2, Histogram.isPeaks hsound, exec_histPeaks_of_ready hready⟩

end Sys2Proof.Machine

namespace Sys2Proof.Machine

/-! ## A failed command changes its sticky flag and its response only (60_exceptions.md R311, R315)

The block answers a command word in one of two ways: with a success code from some state, or by `raise` from the state
it found. The status of the response tells which, so a failure status leaves only the `raise`. -/

/-- The ways an outcome can answer, from state `s`, the command word with opcode `opc`: a success code (R310) from some
state, `raise` of a failure code from `s` itself, or a stop without an answer. -/
inductive AnswersAs (s : State) (opc : Byte) : Host.Outcome State Fault Refusal → Prop
  | completes (u : State) {c : StatusCode} {aux : Half} {result : Word} (hsuccess : c.code.toNat < 0x10 := by decide) :
      AnswersAs s opc (.next (u.respond c opc aux result))
  | fails {c : StatusCode} (hfailure : 0x10 ≤ c.code.toNat := by decide) : AnswersAs s opc (.next (s.raise c opc))
  | stops (f : Fault) : AnswersAs s opc (.fault f)

/-- A command's check: the failing side raises, so only the passing side is left to look at. -/
theorem AnswersAs.check {s : State} {opc : Byte} {c : StatusCode} {p : Prop} [Decidable p]
    {o : Host.Outcome State Fault Refusal} (hpassed : AnswersAs s opc o)
    (hfailure : 0x10 ≤ c.code.toNat := by decide) :
    AnswersAs s opc (if p then .next (s.raise c opc) else o) := by
  split
  · exact .fails hfailure
  · exact hpassed

section
variable (s : State)

theorem execRdreg_answersAs (idx : Byte) : AnswersAs s 0x01#8 (execRdreg idx s) := by
  unfold execRdreg
  split
  · exact .fails
  · exact .completes s

theorem execWrreg_answersAs (idx : Byte) (v : Word) : AnswersAs s 0x02#8 (execWrreg idx v s) := by
  unfold execWrreg
  split
  · exact .fails
  · exact .check (.check (.completes _))

theorem execTrkInit_answersAs : AnswersAs s 0x20#8 (execTrkInit s) := by
  unfold execTrkInit
  split
  · exact .completes _
  · exact .fails

theorem execProcBlock_answersAs (count : Half) (base : Word) : AnswersAs s 0x31#8 (execProcBlock count base s) := by
  refine .check (.check (.check ?_))
  split
  · exact .completes s
  · split
    · exact .stops _
    · split
      · exact .stops _
      · exact .completes _

theorem execEvtSubmit_answersAs (ev : Word) : AnswersAs s 0x32#8 (execEvtSubmit ev s) := by
  refine .check ?_
  split <;> exact .completes _

theorem execHistInit_answersAs : AnswersAs s 0x40#8 (execHistInit s) := by
  unfold execHistInit
  split
  · exact .completes _
  · exact .fails

theorem classifyTone_answersAs (u : State) (d : Nat) (ev : Word) :
    AnswersAs s 0x50#8 (.next (u.classifyTone d ev)) := by
  unfold State.classifyTone
  split <;> exact .completes _

theorem classifyGap_answersAs (u : State) (d : Nat) (ev : Word) :
    AnswersAs s 0x50#8 (.next (u.classifyGap d ev)) := by
  unfold State.classifyGap
  split
  · split
    · exact .completes _
    · exact .completes _
  · exact .completes u

theorem execDecStep_answersAs : AnswersAs s 0x50#8 (execDecStep s) := by
  refine .check ?_
  split
  · exact .completes s
  · split
    · exact classifyTone_answersAs s _ _ _
    · exact classifyGap_answersAs s _ _ _

theorem execDecTimeout_answersAs : AnswersAs s 0x51#8 (execDecTimeout s) := by
  refine .check (.check ?_)
  split <;> exact .completes _

/-- Every command echoes its own opcode, and fails by `raise` alone (R312). -/
theorem exec_answersAs (i : Instr) : AnswersAs s i.opc (exec i s) := by
  cases i with
  | nop => exact .completes s
  | rdreg idx => exact execRdreg_answersAs s idx
  | wrreg idx v => exact execWrreg_answersAs s idx v
  | sreset => exact .completes _
  | rdbin idx => exact .completes s
  | fltStep pcm => exact .completes _
  | nrmStep e => exact .completes _
  | trkInit => exact execTrkInit_answersAs s
  | trkUpdate v => exact .check (.check (.completes _))
  | trkMid => exact .check (.completes s)
  | trkPos => exact .check (.completes s)
  | trkNeg => exact .check (.completes s)
  | edgUpdate v => exact .check (.check (.completes _))
  | nstep v => exact .check (.check (.completes _))
  | procBlock count base => exact execProcBlock_answersAs s count base
  | evtSubmit ev => exact execEvtSubmit_answersAs s ev
  | histInit => exact execHistInit_answersAs s
  | histAdd d => exact .check (.completes _)
  | histDecay => exact .check (.completes _)
  | histPeaks => exact .check (.completes s)
  | histThr => exact .check (.completes s)
  | decStep => exact execDecStep_answersAs s
  | decTimeout => exact execDecTimeout_answersAs s

end

/-- The decoder selects a command by its opcode (R106). -/
theorem opcField_of_decode {w : CmdWord} {i : Instr} (h : decode w = some i) : opcField w = i.opc := by
  unfold decode at h
  split at h
  case h_24 => cases h
  all_goals
    next hopc =>
      simp only [decodeN, decodeR, decodeRW, decodeV, decodePcm, decodeB, Option.ite_none_right_eq_some,
        Option.some.injEq] at h
      obtain ⟨-, rfl⟩ := h
      exact BitVec.eq_of_toNat_eq hopc

/-- Every command word, legal or not, is answered with its own opcode (R107, R108). -/
theorem runWord_answersAs (w : CmdWord) (s : State) : AnswersAs s (opcField w) (runWord w s) := by
  cases hdecode : decode w with
  | none =>
    rw [runWord_of_decode_none hdecode]
    exact .fails
  | some i =>
    rw [runWord_of_decode hdecode, opcField_of_decode hdecode]
    exact exec_answersAs s i

/-- The sticky flag of a failure, told from its code (R312). -/
theorem Status.recordFailure_of_failure (st : Status) {c : StatusCode} (hfailure : 0x10 ≤ c.code.toNat) :
    st.recordFailure c = if c.code = 0x1F#8 then { st with illcmd := true } else { st with err := true } := by
  cases c with
  | ok | empty | qfull => exact absurd hfailure (by decide)
  | invalidArg | notInit | badReg | addrErr | notIdle | illegalCmd => rfl

/-- Settles O7: the response read off the next state is the answer's, so a failure status leaves only `raise`. -/
theorem failuresArePrecise : Obligations.FailuresArePrecise := by
  intro s t w r rest hinput hstep hrsp hfailure
  have hanswer := runWord_answersAs w { s with input := rest }
  rw [← step_command hinput, hstep] at hanswer
  cases hanswer with
  | completes u hsuccess =>
    have hr := List.singleton_inj.1 (List.append_inj_right' hrsp rfl)
    rw [← hr, rspStatus_responseWord] at hfailure
    omega
  | fails hraised =>
    have hr := List.singleton_inj.1 (List.append_inj_right' hrsp rfl)
    rw [← hr, rspStatus_responseWord, State.raise, Status.recordFailure_of_failure _ hraised]
    rfl

end Sys2Proof.Machine

namespace Sys2Proof.Machine

/-! ## The reset values (70_reset_and_hazards.md R341)

Of the registers only STATUS and QCOUNT are not stored as a word: STATUS is assembled from its bits and QCOUNT is the
length of the queue. -/

/-- R341's table: the registers that are not 0 after reset, and 0 for all others. -/
def Reg.resetValue : Reg → Word
  | .ID => 0x4D524431#32
  | .STATUS => 0x00000010#32
  | .CTRL => 2#32
  | .BPF_B0 | .LPF_B0 => 0x40000000#32
  | .NORM_DECAY => 655#32
  | .NORM_EPS => 26#32
  | .T_CUR => 0xFFFFFFFF#32
  | _ => 0#32

/-- Every register reads its reset value after reset, whatever AUD holds (R341). -/
theorem State.readReg_afterReset (aud : Memory) : (State.afterReset aud).readReg = Reg.resetValue := by
  funext r
  cases r with
  | STATUS => exact Status.toWord_reset
  | QCOUNT => exact congrArg toRegU List.length_nil
  | _ => rfl

/-- Settles O11: the registers by `readReg_afterReset`; the bins, the queue, AUD and the streams are fields of the
reset state. -/
theorem resetValues : Obligations.ResetValues := by
  intro aud s
  have hread : s.readReg = Reg.resetValue := State.readReg_afterReset aud
  rw [hread]
  have hbins : s.hist.bins = List.replicate 256 0#32 := rfl
  exact ⟨rfl, rfl, rfl, rfl, rfl, rfl, rfl, hbins, rfl, rfl, rfl, rfl⟩

end Sys2Proof.Machine

namespace Sys2Proof

/-! ## Decoding inverts encoding (30_encoding.md sections 1, 2 and 4)

Each format of the decoder reads a word that is the packed word of its own fields, with zeros for the MBZ fields; the
opcode then says which command's encoding that is. -/

theorem eq_packWord_iff {w : CmdWord} {o i : Byte} {m : Half} {v : Word} :
    w = packWord o i m v ↔ opcField w = o ∧ idxField w = i ∧ immField w = m ∧ opField w = v := by
  conv_lhs => rw [← packWord_fields w]
  exact packWord_inj

section
variable {w : CmdWord} {i : Instr}

theorem decodeN_eq_some_iff {j : Instr} :
    decodeN w j = some i ↔ j = i ∧ w = packWord (opcField w) 0#8 0#16 0#32 := by
  simp [decodeN, eq_packWord_iff, and_comm]

theorem decodeR_eq_some_iff {j : Byte → Instr} :
    decodeR w j = some i ↔ j (idxField w) = i ∧ w = packWord (opcField w) (idxField w) 0#16 0#32 := by
  simp [decodeR, eq_packWord_iff, and_comm]

theorem decodeRW_eq_some_iff {j : Byte → Word → Instr} :
    decodeRW w j = some i
      ↔ j (idxField w) (opField w) = i ∧ w = packWord (opcField w) (idxField w) 0#16 (opField w) := by
  simp [decodeRW, eq_packWord_iff, and_comm]

theorem decodeV_eq_some_iff {j : Word → Instr} :
    decodeV w j = some i ↔ j (opField w) = i ∧ w = packWord (opcField w) 0#8 0#16 (opField w) := by
  simp [decodeV, eq_packWord_iff, and_comm]

/-- The upper half of a zero-extended sample is 0, and the lower half is the sample (R103). -/
theorem eq_zeroExtended_iff {x : Word} : x = 0#16 ++ x.extractLsb' 0 16 ↔ x.extractLsb' 16 16 = 0#16 := by
  have hsplit : x.extractLsb' 16 16 ++ x.extractLsb' 0 16 = x :=
    (BitVec.extractLsb'_append_extractLsb'_eq_extractLsb' (by rfl)).trans BitVec.extractLsb'_eq_self
  constructor
  · intro hx
    exact (BitVec.append_left_inj _).1 (hsplit.trans hx)
  · intro hupper
    rw [hupper] at hsplit
    exact hsplit.symm

theorem decodePcm_eq_some_iff {j : Half → Instr} :
    decodePcm w j = some i ↔ j ((opField w).extractLsb' 0 16) = i
      ∧ w = packWord (opcField w) 0#8 0#16 (0#16 ++ (opField w).extractLsb' 0 16) := by
  simp [decodePcm, eq_packWord_iff, eq_zeroExtended_iff, and_comm]

theorem decodeB_eq_some_iff {j : Half → Word → Instr} :
    decodeB w j = some i
      ↔ j (immField w) (opField w) = i ∧ w = packWord (opcField w) 0#8 (immField w) (opField w) := by
  simp [decodeB, eq_packWord_iff, and_comm]

end

/-- The words written out by `encode` are read back, one format at a time. -/
theorem decode_encode (i : Instr) : decode (encode i) = some i := by
  cases i with
  | nop | sreset | trkInit | trkMid | trkPos | trkNeg | histInit | histDecay | histPeaks | histThr | decStep
  | decTimeout => simp [encode, decode, decodeN_eq_some_iff]
  | rdreg | rdbin => simp [encode, decode, decodeR_eq_some_iff]
  | wrreg => simp [encode, decode, decodeRW_eq_some_iff]
  | fltStep pcm =>
    have hlow : (0#16 ++ pcm : Word).extractLsb' 0 16 = pcm := BitVec.extractLsb'_append_eq_right
    simp [encode, decode, decodePcm_eq_some_iff, hlow]
  | nrmStep | trkUpdate | edgUpdate | nstep | evtSubmit | histAdd => simp [encode, decode, decodeV_eq_some_iff]
  | procBlock => simp [encode, decode, decodeB_eq_some_iff]

end Sys2Proof

namespace Sys2Proof.Machine

/-- A word that decodes is the encoding of what it decodes to: its fields are those the command's format has. -/
theorem eq_encode_of_decode {w : CmdWord} {i : Instr} (h : decode w = some i) : w = encode i := by
  have hopc : opcField w = i.opc := opcField_of_decode h
  unfold decode at h
  split at h
  case h_24 => cases h
  all_goals
    simp only [decodeN_eq_some_iff, decodeR_eq_some_iff, decodeRW_eq_some_iff, decodeV_eq_some_iff,
      decodePcm_eq_some_iff, decodeB_eq_some_iff] at h
    obtain ⟨rfl, hfields⟩ := h
    refine hfields.trans ?_
    rw [hopc]
    rfl

/-- Settles O1: the two directions are `eq_encode_of_decode` and `decode_encode`. -/
theorem decodeIffEncode : Obligations.DecodeIffEncode := by
  intro w i
  constructor
  · exact eq_encode_of_decode
  · rintro rfl
    exact decode_encode i

/-- Settles O3: the legal words are the encodings of their commands; the two illegal ones have an MBZ bit set. -/
theorem specWordsDecode : Obligations.SpecWordsDecode :=
  have read {w : CmdWord} (i : Instr) (h : w = encode i) : decode w = some i := (decodeIffEncode w i).2 h
  ⟨read _ rfl, read _ rfl, read _ rfl, read _ rfl, read _ rfl, read _ rfl, read _ rfl, read _ rfl, read _ rfl,
    read _ rfl, read _ rfl, by decide, by decide⟩

/-- Settles O4: a step runs the word, and the word runs what it decodes to. -/
theorem stepRunsDecodedCommand : Obligations.StepRunsDecodedCommand := by
  intro s w rest i hinput hdecode
  rw [step_command hinput, runWord_of_decode hdecode]

end Sys2Proof.Machine

namespace Sys2Proof.Machine

/-! ## What the producer's operations leave unchanged (10_state.md R70)

The relation between the states before and after an operation of the producer domain. It is reflexive and transitive, so
the operations compose, and a block of samples is an induction. Besides R70's write set it says that a drop is recorded
for good: QOVF stays and QDROP never falls. -/

/-- All that an operation of the producer domain keeps; its response is not part of the operation. -/
structure ProducerKeeps (s t : State) : Prop where
  hist : t.hist = s.hist
  sym : t.sym = s.sym
  rsp : t.rsp = s.rsp
  ctrl : t.ctrl = s.ctrl
  input : t.input = s.input
  audOut : t.audOut = s.audOut
  histReady : t.status.histReady = s.status.histReady
  idleFlushed : t.status.idleFlushed = s.status.idleFlushed
  illcmd : t.status.illcmd = s.status.illcmd
  queue : s.queue <+: t.queue
  normDecay : t.norm.decay = s.norm.decay
  normEps : t.norm.eps = s.norm.eps
  trkDecayStep : t.trk.decayStep = s.trk.decayStep
  trkMinRange : t.trk.minRange = s.trk.minRange
  bpf : [t.bpf.b0, t.bpf.b1, t.bpf.b2, t.bpf.a1, t.bpf.a2] = [s.bpf.b0, s.bpf.b1, s.bpf.b2, s.bpf.a1, s.bpf.a2]
  lpf : [t.lpf.b0, t.lpf.b1, t.lpf.b2, t.lpf.a1, t.lpf.a2] = [s.lpf.b0, s.lpf.b1, s.lpf.b2, s.lpf.a1, s.lpf.a2]
  qovf : s.status.qovf = true → t.status.qovf = true
  qdrop : s.qdrop.toNat ≤ t.qdrop.toNat
  capacity : s.queue.length ≤ 16 → t.queue.length ≤ 16

theorem ProducerKeeps.refl (s : State) : ProducerKeeps s s := by
  constructor <;> simp

theorem ProducerKeeps.trans {s t u : State} (h1 : ProducerKeeps s t) (h2 : ProducerKeeps t u) : ProducerKeeps s u where
  hist := h2.hist.trans h1.hist
  sym := h2.sym.trans h1.sym
  rsp := h2.rsp.trans h1.rsp
  ctrl := h2.ctrl.trans h1.ctrl
  input := h2.input.trans h1.input
  audOut := h2.audOut.trans h1.audOut
  histReady := h2.histReady.trans h1.histReady
  idleFlushed := h2.idleFlushed.trans h1.idleFlushed
  illcmd := h2.illcmd.trans h1.illcmd
  queue := h1.queue.trans h2.queue
  normDecay := h2.normDecay.trans h1.normDecay
  normEps := h2.normEps.trans h1.normEps
  trkDecayStep := h2.trkDecayStep.trans h1.trkDecayStep
  trkMinRange := h2.trkMinRange.trans h1.trkMinRange
  bpf := h2.bpf.trans h1.bpf
  lpf := h2.lpf.trans h1.lpf
  qovf := h2.qovf ∘ h1.qovf
  qdrop := h1.qdrop.trans h2.qdrop
  capacity := h2.capacity ∘ h1.capacity

section
variable (s : State)

theorem State.fltStep_keeps (pcm : Half) : ProducerKeeps s (s.fltStep pcm) := by
  constructor <;> simp

theorem Normalizer.update_config (n : Normalizer) (es : List Word) :
    (n.update es).decay = n.decay ∧ (n.update es).eps = n.eps :=
  ⟨(n.update_cases es).1, (n.update_cases es).2.1⟩

theorem State.normUpdate_keeps (es : List Word) : ProducerKeeps s (s.normUpdate es) := by
  obtain ⟨hdecay, heps⟩ := s.norm.update_config es
  constructor <;> simp [hdecay, heps]

theorem State.trkUpdate_keeps (x : Int) : ProducerKeeps s (s.trkUpdate x) := by
  obtain ⟨hstep, hrange⟩ := s.trk.update_config x
  constructor <;> simp [hstep, hrange]

theorem State.edgeUpdate_keeps (x : Int) : ProducerKeeps s (s.edgeUpdate x) := by
  obtain ⟨below, valid, count, hstate⟩ := s.edgeUpdate_frame x
  rw [hstate]
  constructor <;> simp

/-- A push appends the event where there is room, and otherwise records the drop in QOVF and QDROP. -/
theorem State.queuePush_keeps (ev : Word) : ProducerKeeps s (s.queuePush ev) := by
  rcases s.queuePush_cases ev with ⟨hroom, hpush⟩ | ⟨hfull, hpush⟩ <;> rw [hpush]
  case inl =>
    constructor <;> simp
    omega
  case inr =>
    have hqdrop := s.qdrop.isLt
    constructor <;> simp [toRegU_satu32_toNat]
    omega

theorem State.nstepCore_keeps (x : Int) : ProducerKeeps s (s.nstepCore x) := by
  have hstep : ProducerKeeps s ((s.trkUpdate x).edgeUpdate x) :=
    (s.trkUpdate_keeps x).trans (State.edgeUpdate_keeps _ x)
  rcases s.nstepCore_cases x with ⟨-, hcore⟩ | ⟨-, hcore⟩ <;> rw [hcore]
  · exact hstep
  · exact hstep.trans (State.queuePush_keeps _ _)

end

theorem filterPass_keeps : ∀ (pcms : List Half) (s : State), ProducerKeeps s (filterPass pcms s)
  | [], s => .refl s
  | pcm :: rest, s => (s.fltStep_keeps pcm).trans (filterPass_keeps rest _)

theorem comparePass_keeps : ∀ (ns : List Word) (s : State), ProducerKeeps s (comparePass ns s)
  | [], s => .refl s
  | n :: rest, s => (s.nstepCore_keeps n.toNat).trans (comparePass_keeps rest _)

theorem State.runBlock_keeps (s : State) (pcms : List Half) : ProducerKeeps s (s.runBlock pcms) :=
  ((filterPass_keeps pcms s).trans (State.normUpdate_keeps _ _)).trans (comparePass_keeps _ _)

/-! ## PROC_BLOCK past its checks (45_block_and_queue.md R243; 20_memory.md R83)

The region check leaves only frames that lie inside AUD, so all reads and all writes of the block succeed. -/

theorem exists_writeFrames : ∀ (ds : List Half) (m : Memory) (addr : Nat), addr + 4 * ds.length ≤ 4096 →
    ∃ m', writeFrames m addr ds = some m'
  | [], m, _, _ => ⟨m, rfl⟩
  | d :: ds, m, addr, h => by
    rw [List.length_cons] at h
    have hwrite (m : Memory) (a : Nat) (ha : a + 1 < 4096) : ∃ m', Memory.writeHalf m a d = some m' :=
      ⟨_, if_pos ha⟩
    obtain ⟨m1, h1⟩ := hwrite m addr (by omega)
    obtain ⟨m2, h2⟩ := hwrite m1 (addr + 2) (by omega)
    obtain ⟨m', h3⟩ := exists_writeFrames ds m2 (addr + 4) (by omega)
    exact ⟨m', by simp only [writeFrames, h1, h2, h3]⟩

theorem envelopes_length : ∀ (pcms : List Half) (s : State), (envelopes pcms s).length = pcms.length
  | [], _ => rfl
  | _ :: rest, _ => congrArg (· + 1) (envelopes_length rest _)

theorem State.normalized_length (s : State) (pcms : List Half) : (s.normalized pcms).length = pcms.length := by
  rw [State.normalized, List.length_map, envelopes_length]

theorem blockSamples_length (s : State) (count : Half) (base : Word) :
    (blockSamples s count base).length = count.toNat := by
  rw [blockSamples, List.length_map, List.length_range]

theorem blockAddrBad_iff (count : Half) (base : Word) :
    blockAddrBad count base = true ↔ base.toNat % 4 ≠ 0 ∨ 4096 < base.toNat + 4 * count.toNat :=
  decide_eq_true_iff

/-- PROC_BLOCK may work on the region: the checks of R243 after the READY check. -/
structure BlockLegal (count : Half) (base : Word) : Prop where
  count_le : count.toNat ≤ 1024
  aligned : base.toNat % 4 = 0
  inside : base.toNat + 4 * count.toNat ≤ 4096

theorem BlockLegal.addrBad_eq_false {count : Half} {base : Word} (h : BlockLegal count base) :
    blockAddrBad count base = false := by
  obtain ⟨-, haligned, hinside⟩ := h
  rw [Bool.eq_false_iff, Ne, blockAddrBad_iff]
  omega

section
variable {count : Half} {base : Word} {s : State}

theorem BlockLegal.readFrames_eq (h : BlockLegal count base) :
    readFrames s.aud (base.toNat + if s.chsel then 2 else 0) count.toNat = some (blockSamples s count base) := by
  have hinside := h.inside
  have hshift (i k : Nat) : base.toNat + k + 4 * i = base.toNat + 4 * i + k := by omega
  rw [Sys2Proof.Machine.readFrames_eq _ _ _ (by split <;> omega)]
  simp only [blockSamples, State.chsel, hshift]
  rfl

theorem BlockLegal.exists_debugCopy (h : BlockLegal count base) :
    ∃ m, s.debugCopy base (s.normalized (blockSamples s count base)) = some m := by
  unfold State.debugCopy
  split
  · apply exists_writeFrames
    rw [List.length_map, State.normalized_length, blockSamples_length]
    exact h.inside
  · exact ⟨s.aud, rfl⟩

/-- PROC_BLOCK on a legal non-empty block, its next state whole. -/
theorem BlockLegal.exec_eq (h : BlockLegal count base) (hready : s.status.trkReady = true) (hcount : 1 ≤ count.toNat)
    {m : Memory} (hcopy : s.debugCopy base (s.normalized (blockSamples s count base)) = some m) :
    exec (.procBlock count base) s = .next
      ({ s.runBlock (blockSamples s count base) with aud := m }.respond .ok 0x31#8
        (BitVec.ofNat 16 (s.blockEvents (blockSamples s count base))) (toRegU (4 * count.toNat))) := by
  have hnonempty : count ≠ 0#16 := by rintro rfl; simp at hcount
  have hmax : ¬ 1024 < count.toNat := not_lt.2 h.count_le
  simp [exec, execProcBlock, hready, hmax, h.addrBad_eq_false, hnonempty, h.readFrames_eq, hcopy]

end

end Sys2Proof.Machine

namespace Sys2Proof

/-- The failures of 60_exceptions.md R310 that a command can answer. -/
def Instr.MayFail (i : Instr) : Machine.StatusCode → Prop
  | .invalidArg => i = .trkInit ∨ i = .histInit ∨ (∃ idx v, i = .wrreg idx v) ∨ (∃ v, i = .trkUpdate v)
      ∨ (∃ v, i = .edgUpdate v) ∨ (∃ v, i = .nstep v) ∨ (∃ c b, i = .procBlock c b) ∨ ∃ v, i = .evtSubmit v
  | .notInit => i.needs ≠ .none
  | .badReg => (∃ idx, i = .rdreg idx) ∨ ∃ idx v, i = .wrreg idx v
  | .addrErr => ∃ c b, i = .procBlock c b
  | .notIdle => i = .decTimeout
  | .ok | .empty | .qfull | .illegalCmd => False

end Sys2Proof

namespace Sys2Proof.Machine

/-! ## All a command can do

`Effect s i c u` lists what command `i` can do in state `s`: the status code `c` it answers, and the state `u` it leaves
before its response is transferred. Statements about every command are case analyses of it. -/

/-- The symbols of a rising event's gap (47_classifier.md R293). -/
def gapSymbols (d tCur : Nat) : List Symbol :=
  if d ≥ tCur then if d ≥ 3 * tCur then [.letter, .word] else [.letter] else []

/-- The symbol of a falling event's tone (R293). -/
def toneSymbol (d tCur : Nat) : Symbol := if d < tCur then .dit else .dah

/-- What command `i` can do from state `s`: answer the status code and leave the state before its response. -/
inductive Effect (s : State) : Instr → StatusCode → State → Prop
  | fails {i : Instr} {c : StatusCode} (hfail : i.MayFail c) :
      Effect s i c { s with status := s.status.recordFailure c }
  | reads (i : Instr) : Effect s i .ok s
  | noEvent : Effect s .decStep .empty s
  | wrreg {idx : Byte} {v : Word} {r : Reg} (hmapped : regAt idx = some r) (hwritable : r.readOnly = false)
      (hlegal : r.rejects v = false) : Effect s (.wrreg idx v) .ok (s.writeReg r v)
  | sreset : Effect s .sreset .ok
      { State.afterReset s.aud with input := s.input, rsp := s.rsp, sym := s.sym, audOut := s.audOut }
  | fltStep (pcm : Half) : Effect s (.fltStep pcm) .ok (s.fltStep pcm)
  | nrmStep (e : Word) : Effect s (.nrmStep e) .ok (s.normUpdate [e])
  | trkInit (hlegal : s.trk.configLegal = true) : Effect s .trkInit .ok { s with
      trk := { s.trk with tmin := toReg (-1), tmax := toReg 1 }
      edgeCount := 0#32
      status := { s.status with below := false, edgeValid := false, trkReady := true } }
  | trkUpdate {x : Word} (hready : s.status.trkReady = true) (hlegal : x.toNat ≤ 0x7FFFFFFF) :
      Effect s (.trkUpdate x) .ok (s.trkUpdate x.toNat)
  | edgUpdate {x : Word} (hready : s.status.trkReady = true) (hlegal : x.toNat ≤ 0x7FFFFFFF) :
      Effect s (.edgUpdate x) .ok (s.edgeUpdate x.toNat)
  | nstep {x : Word} (hready : s.status.trkReady = true) (hlegal : x.toNat ≤ 0x7FFFFFFF) :
      Effect s (.nstep x) .ok (s.nstepCore x.toNat)
  | procBlock {count : Half} {base : Word} {m : Memory} (hready : s.status.trkReady = true)
      (hcount : 1 ≤ count.toNat) (hblock : BlockLegal count base)
      (hcopy : s.debugCopy base (s.normalized (blockSamples s count base)) = some m) :
      Effect s (.procBlock count base) .ok { s.runBlock (blockSamples s count base) with aud := m }
  | evtSubmit {ev : Word} (hev : ev ≠ 0#32) :
      Effect s (.evtSubmit ev) (if s.queueFull then .qfull else .ok) (s.queuePush ev)
  | histInit (hlegal : s.hist.configLegal = true) : Effect s .histInit .ok { s with
      hist := { s.hist.cleared with tCur := s.hist.cleared.threshold }
      status := { s.status with histReady := true, idleFlushed := true } }
  | histAdd (d : Word) (hready : s.status.histReady = true) :
      Effect s (.histAdd d) .ok { s with hist := s.hist.add d.toNat }
  | histDecay {i : Instr} (hi : i = .histDecay ∨ i = .decTimeout) (hready : s.status.histReady = true) :
      Effect s i .ok { s with hist := s.hist.decayAll }
  | tone {ev : Word} {rest : List Word} (hready : s.status.histReady = true) (hqueue : s.queue = ev :: rest) (d : Nat) :
      Effect s .decStep .ok
        ({ s.takeEvent rest with hist := s.hist.learn d }.emit (toneSymbol d (s.hist.learn d).tCur.toNat))
  | gap {ev : Word} {rest : List Word} (hready : s.status.histReady = true) (hqueue : s.queue = ev :: rest) (d : Nat) :
      Effect s .decStep .ok { s.takeEvent rest with sym := s.sym ++ gapSymbols d s.hist.tCur.toNat }
  | flush (hready : s.status.histReady = true) : Effect s .decTimeout .ok
      { s with status := { s.status with idleFlushed := true }, sym := s.sym ++ [.letter, .flush] }

/-- The outcome is a next state: one of the command's effects and then its response, with zeros in a failure (R107). -/
def AnswersWith (s : State) (i : Instr) (o : Host.Outcome State Fault Refusal) : Prop :=
  ∃ c u aux result, o = .next (u.respond c i.opc aux result) ∧ Effect s i c u
    ∧ (0x10 ≤ c.code.toNat → aux = 0#16 ∧ result = 0#32)

section
variable {s : State} {i : Instr}

theorem Effect.answers {c : StatusCode} {u : State} (h : Effect s i c u) (aux : Half) (result : Word)
    (hsuccess : c.code.toNat < 0x10 := by decide) : AnswersWith s i (.next (u.respond c i.opc aux result)) :=
  ⟨c, u, aux, result, rfl, h, fun hfailure => absurd hfailure (by omega)⟩

theorem AnswersWith.raise {c : StatusCode} (hfail : i.MayFail c := by simp [Instr.MayFail, Instr.needs]) :
    AnswersWith s i (.next (s.raise c i.opc)) :=
  ⟨c, _, 0#16, 0#32, rfl, .fails hfail, fun _ => ⟨rfl, rfl⟩⟩

/-- A command's check: the failing side raises, and the passing side may use that the check passed. -/
theorem AnswersWith.check {p : Prop} [Decidable p] {c : StatusCode} {o : Host.Outcome State Fault Refusal}
    (hpassed : ¬ p → AnswersWith s i o) (hfail : i.MayFail c := by simp [Instr.MayFail, Instr.needs]) :
    AnswersWith s i (if p then .next (s.raise c i.opc) else o) := by
  split
  case isTrue => exact .raise hfail
  case isFalse hp => exact hpassed hp

end

theorem trkReady_of_check {s : State} (h : ¬ (!s.status.trkReady) = true) : s.status.trkReady = true := by simpa using h

theorem histReady_of_check {s : State} (h : ¬ (!s.status.histReady) = true) : s.status.histReady = true := by
  simpa using h

theorem sample_le_of_check {x : Word} (h : ¬ (!sampleLegal x) = true) : x.toNat ≤ 0x7FFFFFFF :=
  (sampleLegal_iff x).1 (by simpa using h)

section
variable (s : State)

theorem execRdreg_answersWith (idx : Byte) : AnswersWith s (.rdreg idx) (execRdreg idx s) := by
  unfold execRdreg
  split
  · exact .raise
  · exact (Effect.reads _).answers _ _

theorem execWrreg_answersWith (idx : Byte) (v : Word) : AnswersWith s (.wrreg idx v) (execWrreg idx v s) := by
  unfold execWrreg
  split
  · exact .raise
  · next r hmapped =>
    exact .check fun hwritable => .check fun hlegal =>
      (Effect.wrreg hmapped (Bool.eq_false_iff.2 hwritable) (Bool.eq_false_iff.2 hlegal)).answers _ _

theorem execTrkInit_answersWith : AnswersWith s .trkInit (execTrkInit s) := by
  unfold execTrkInit
  split
  case isTrue hlegal => exact (Effect.trkInit hlegal).answers _ _
  case isFalse => exact .raise

theorem execProcBlock_answersWith (count : Half) (base : Word) :
    AnswersWith s (.procBlock count base) (execProcBlock count base s) := by
  refine .check fun hready => .check fun hmax => .check fun haddr => ?_
  have hready := trkReady_of_check hready
  rw [blockAddrBad_iff] at haddr
  have hblock : BlockLegal count base := ⟨not_lt.1 hmax, by omega, by omega⟩
  obtain ⟨m, hcopy⟩ := hblock.exists_debugCopy (s := s)
  split
  case isTrue => exact (Effect.reads _).answers _ _
  case isFalse hnonempty =>
    have hcount : 1 ≤ count.toNat := by
      have hne : count.toNat ≠ 0 := fun h => hnonempty (BitVec.eq_of_toNat_eq h)
      omega
    rw [hblock.readFrames_eq]
    simp only [hcopy]
    exact (Effect.procBlock hready hcount hblock hcopy).answers _ _

theorem execEvtSubmit_answersWith (ev : Word) : AnswersWith s (.evtSubmit ev) (execEvtSubmit ev s) := by
  refine .check fun hev => ?_
  have heffect := Effect.evtSubmit (s := s) hev
  split <;> next hfull =>
    simp only [hfull] at heffect
    exact heffect.answers _ _

theorem execHistInit_answersWith : AnswersWith s .histInit (execHistInit s) := by
  unfold execHistInit
  split
  case isTrue hlegal => exact (Effect.histInit hlegal).answers _ _
  case isFalse => exact .raise

/-- A falling event in one equation: the symbol decides the response (R293). -/
theorem State.classifyTone_eq (d : Nat) (ev : Word) :
    s.classifyTone d ev = ({ s with hist := s.hist.learn d }.emit (toneSymbol d (s.hist.learn d).tCur.toNat)).respond
      .ok 0x50#8 (symbolPair (toneSymbol d (s.hist.learn d).tCur.toNat).code 0#8) ev := by
  unfold State.classifyTone toneSymbol
  split <;> rfl

/-- The `aux16` of a rising event (R293). -/
def gapAux (d tCur : Nat) : Half := if d ≥ tCur then if d ≥ 3 * tCur then 0x0403#16 else 0x0003#16 else 0#16

/-- A rising event in one equation: the gap decides the symbols and the response (R293). -/
theorem State.classifyGap_eq (d : Nat) (ev : Word) :
    s.classifyGap d ev = { s with sym := s.sym ++ gapSymbols d s.hist.tCur.toNat }.respond
      .ok 0x50#8 (gapAux d s.hist.tCur.toNat) ev := by
  unfold State.classifyGap gapSymbols gapAux
  split
  · split
    · simp only [State.emit, List.append_assoc]
      rfl
    · rfl
  · simp only [List.append_nil]

theorem execDecStep_answersWith : AnswersWith s .decStep (execDecStep s) := by
  refine .check fun hready => ?_
  have hready := histReady_of_check hready
  split
  · exact Effect.noEvent.answers _ _
  · next ev rest hqueue =>
    split
    · rw [State.classifyTone_eq]
      exact (Effect.tone hready hqueue _).answers _ _
    · rw [State.classifyGap_eq]
      exact (Effect.gap hready hqueue _).answers _ _

theorem execDecTimeout_answersWith : AnswersWith s .decTimeout (execDecTimeout s) := by
  refine .check fun hready => .check fun _ => ?_
  have hready := histReady_of_check hready
  split
  · simp only [State.emit, List.append_assoc]
    exact (Effect.flush hready).answers _ _
  · exact (Effect.histDecay (.inr rfl) hready).answers _ _

/-- Every command answers a next state, and that state is one of its effects with its response. -/
theorem exec_answersWith (i : Instr) : AnswersWith s i (exec i s) := by
  cases i with
  | nop => exact (Effect.reads _).answers _ _
  | rdreg idx => exact execRdreg_answersWith s idx
  | wrreg idx v => exact execWrreg_answersWith s idx v
  | sreset => exact Effect.sreset.answers _ _
  | rdbin idx => exact (Effect.reads _).answers _ _
  | fltStep pcm => exact (Effect.fltStep pcm).answers _ _
  | nrmStep e => exact (Effect.nrmStep e).answers _ _
  | trkInit => exact execTrkInit_answersWith s
  | trkUpdate x =>
    exact .check fun hready => .check fun hlegal =>
      (Effect.trkUpdate (trkReady_of_check hready) (sample_le_of_check hlegal)).answers _ _
  | trkMid => exact .check fun _ => (Effect.reads _).answers _ _
  | trkPos => exact .check fun _ => (Effect.reads _).answers _ _
  | trkNeg => exact .check fun _ => (Effect.reads _).answers _ _
  | edgUpdate x =>
    exact .check fun hready => .check fun hlegal =>
      (Effect.edgUpdate (trkReady_of_check hready) (sample_le_of_check hlegal)).answers _ _
  | nstep x =>
    exact .check fun hready => .check fun hlegal =>
      (Effect.nstep (trkReady_of_check hready) (sample_le_of_check hlegal)).answers _ _
  | procBlock count base => exact execProcBlock_answersWith s count base
  | evtSubmit ev => exact execEvtSubmit_answersWith s ev
  | histInit => exact execHistInit_answersWith s
  | histAdd d => exact .check fun hready => (Effect.histAdd d (histReady_of_check hready)).answers _ _
  | histDecay => exact .check fun hready => (Effect.histDecay (.inl rfl) (histReady_of_check hready)).answers _ _
  | histPeaks => exact .check fun _ => (Effect.reads _).answers _ _
  | histThr => exact .check fun _ => (Effect.reads _).answers _ _
  | decStep => exact execDecStep_answersWith s
  | decTimeout => exact execDecTimeout_answersWith s

end

end Sys2Proof.Machine

namespace Sys2Proof.Machine

/-! ## Responses (30_encoding.md section 3; 60_exceptions.md section 1) -/

/-- The inversion of `exec`: its next state is an effect of the command with the response added. -/
theorem effect_of_exec {i : Instr} {s t : State} (h : exec i s = .next t) : ∃ c u aux result,
    t = u.respond c i.opc aux result ∧ Effect s i c u ∧ (0x10 ≤ c.code.toNat → aux = 0#16 ∧ result = 0#32) := by
  obtain ⟨c, u, aux, result, hexec, heffect, hzeros⟩ := exec_answersWith s i
  exact ⟨c, u, aux, result, Host.Outcome.next.inj (h.symm.trans hexec), heffect, hzeros⟩

section
variable {s u : State} {i : Instr} {c : StatusCode}

/-- No effect writes a response of its own. -/
theorem Effect.rsp_eq (h : Effect s i c u) : u.rsp = s.rsp := by
  cases h with
  | fails | reads | noEvent | sreset | fltStep | nrmStep | trkInit | trkUpdate | histInit | histAdd | histDecay | tone
  | gap | flush => rfl
  | wrreg => exact (State.writeReg_frame _ _ _).2.2.2.2.2.1
  | edgUpdate => exact (State.edgeUpdate_keeps _ _).rsp
  | nstep => exact (State.nstepCore_keeps _ _).rsp
  | procBlock => exact (State.runBlock_keeps _ _).rsp
  | evtSubmit => exact (State.queuePush_keeps _ _).rsp

/-- The status codes of 60_exceptions.md R310, by command. -/
theorem Effect.code_cases (h : Effect s i c u) :
    c = .ok ∨ (c = .empty ∧ i = .decStep) ∨ (c = .qfull ∧ ∃ ev, i = .evtSubmit ev) ∨ i.MayFail c := by
  cases h with
  | fails hfail => exact .inr (.inr (.inr hfail))
  | noEvent => exact .inr (.inl ⟨rfl, rfl⟩)
  | evtSubmit =>
    split
    · exact .inr (.inr (.inl ⟨rfl, _, rfl⟩))
    · exact .inl rfl
  | _ => exact .inl rfl

end

/-- The response read off the next state of a command. -/
theorem response_of_exec {i : Instr} {s t : State} {r : CmdWord} (hexec : exec i s = .next t)
    (hrsp : t.rsp = s.rsp ++ [r]) : ∃ c u aux result, Effect s i c u ∧ r = responseWord c i.opc aux result := by
  obtain ⟨c, u, aux, result, rfl, heffect, -⟩ := effect_of_exec hexec
  rw [State.respond_rsp, heffect.rsp_eq] at hrsp
  exact ⟨c, u, aux, result, heffect, (List.singleton_inj.1 (List.append_cancel_left hrsp)).symm⟩

/-- One command word appends one response (R107). -/
theorem exec_appends_response {i : Instr} {s t : State} (h : exec i s = .next t) : ∃ c aux result,
    t.rsp = s.rsp ++ [responseWord c i.opc aux result] ∧ (0x10 ≤ c.code.toNat → aux = 0#16 ∧ result = 0#32) := by
  obtain ⟨c, u, aux, result, rfl, heffect, hzeros⟩ := effect_of_exec h
  exact ⟨c, aux, result, by rw [State.respond_rsp, heffect.rsp_eq], hzeros⟩

/-- The same of every command word, legal or not; an illegal word's response is that of `raise`. -/
theorem runWord_appends_response {w : CmdWord} {s t : State} (h : runWord w s = .next t) : ∃ c aux result,
    t.rsp = s.rsp ++ [responseWord c (opcField w) aux result]
      ∧ (0x10 ≤ c.code.toNat → aux = 0#16 ∧ result = 0#32) := by
  cases hdecode : decode w with
  | none =>
    rw [runWord_of_decode_none hdecode] at h
    cases h
    exact ⟨.illegalCmd, 0#16, 0#32, rfl, fun _ => ⟨rfl, rfl⟩⟩
  | some i =>
    rw [runWord_of_decode hdecode] at h
    rw [opcField_of_decode hdecode]
    exact exec_appends_response h

/-- Settles O6: the one response is `responseWord` with the word's opcode, and its fields are read back. -/
theorem everyWordAnsweredOnce : Obligations.EveryWordAnsweredOnce := by
  intro s t w rest hinput hstep
  rw [step_command hinput] at hstep
  obtain ⟨c, aux, result, hrsp, hzeros⟩ := runWord_appends_response hstep
  refine ⟨_, hrsp, rspOpc_responseWord _ _ _ _, fun hfailure => ?_⟩
  have hcode : 0x10 ≤ c.code.toNat := by rwa [← rspStatus_responseWord c (opcField w) aux result]
  obtain ⟨haux, hresult⟩ := hzeros hcode
  exact ⟨(rspAux_responseWord _ _ _ _).trans haux, (rspResult_responseWord _ _ _ _).trans hresult⟩

/-- Settles O8: the response carries the code of an effect, and `Effect.code_cases` lists those. -/
theorem statusCodesByCommand : Obligations.StatusCodesByCommand := by
  intro i s t r hexec hrsp
  obtain ⟨c, u, aux, result, heffect, rfl⟩ := response_of_exec hexec hrsp
  rw [rspStatus_responseWord]
  rcases heffect.code_cases with rfl | ⟨rfl, hi⟩ | ⟨rfl, hi⟩ | hfail
  · exact .inl rfl
  · exact .inr (.inl ⟨rfl, hi⟩)
  · exact .inr (.inr (.inl ⟨rfl, hi⟩))
  · cases c with
    | ok | empty | qfull | illegalCmd => exact hfail.elim
    | invalidArg => exact .inr (.inr (.inr (.inl ⟨rfl, hfail⟩)))
    | notInit => exact .inr (.inr (.inr (.inr (.inl ⟨rfl, hfail⟩))))
    | badReg => exact .inr (.inr (.inr (.inr (.inr (.inl ⟨rfl, hfail⟩)))))
    | addrErr => exact .inr (.inr (.inr (.inr (.inr (.inr (.inl ⟨rfl, hfail⟩))))))
    | notIdle => exact .inr (.inr (.inr (.inr (.inr (.inr (.inr ⟨rfl, hfail⟩))))))

/-! ## The block never halts (60_exceptions.md R314) -/

theorem exec_completes (i : Instr) (s : State) : ∃ t, exec i s = .next t := by
  obtain ⟨c, u, aux, result, hexec, -⟩ := exec_answersWith s i
  exact ⟨_, hexec⟩

theorem runWord_completes (w : CmdWord) (s : State) : ∃ t, runWord w s = .next t := by
  cases hdecode : decode w with
  | none => exact ⟨_, runWord_of_decode_none hdecode s⟩
  | some i =>
    rw [runWord_of_decode hdecode]
    exact exec_completes i s

theorem step_completes (s : State) : ∃ t, step s = .next t := by
  unfold step
  split
  · exact ⟨s, rfl⟩
  · next m rest _ =>
    cases m with
    | command w => exact runWord_completes w _
    | audWrite | audRead | hardReset => exact ⟨_, rfl⟩

/-- Settles O9: a run is a chain of steps, each of which answers a next state. -/
theorem blockNeverHalts : Obligations.BlockNeverHalts := by
  intro s k
  induction k generalizing s with
  | zero => exact ⟨s, rfl⟩
  | succ k ih =>
    obtain ⟨s', hstep⟩ := step_completes s
    obtain ⟨t, hrun⟩ := ih s'
    have hfirst : core.step s = .next s' := hstep
    exact ⟨t, by simpa only [Host.Core.run, hfirst] using hrun⟩

/-! ## The READY checks (30_encoding.md section 4) -/

/-- A command of the tracker group finds TRK_READY 0. -/
theorem exec_of_trkReady_false {i : Instr} {s : State} (hneeds : i.needs = .trkReady)
    (hready : s.status.trkReady = false) : exec i s = .next (s.raise .notInit i.opc) := by
  cases i with
  | trkUpdate | trkMid | trkPos | trkNeg | edgUpdate | nstep | procBlock => exact if_pos (by rw [hready]; rfl)
  | _ => cases hneeds

/-- A command of the histogram group finds HIST_READY 0. -/
theorem exec_of_histReady_false {i : Instr} {s : State} (hneeds : i.needs = .histReady)
    (hready : s.status.histReady = false) : exec i s = .next (s.raise .notInit i.opc) := by
  cases i with
  | histAdd | histDecay | histPeaks | histThr | decStep | decTimeout => exact if_pos (by rw [hready]; rfl)
  | _ => cases hneeds

/-- Settles O10: in both groups the READY check is the first, and it raises NOT_INIT. -/
theorem notInitWithoutReady : Obligations.NotInitWithoutReady := by
  rintro i s (⟨hneeds, hready⟩ | ⟨hneeds, hready⟩)
  · exact exec_of_trkReady_false hneeds hready
  · exact exec_of_histReady_false hneeds hready

end Sys2Proof.Machine

namespace Sys2Proof.Machine

/-! ## The identity chain (41_filter_chain.md sections 2 and 3)

With the reset coefficients a section's accumulator is the sample times 2^30, so the section answers the sample itself
and never clips, whatever its delay line holds. -/

/-- The coefficients after reset: 1.0 for `b0` and 0 for the others (10_state.md R40, R42). -/
structure Biquad.Identity (f : Biquad) : Prop where
  b0 : f.b0 = 0x40000000#32
  b1 : f.b1 = 0#32
  b2 : f.b2 = 0#32
  a1 : f.a1 = 0#32
  a2 : f.a2 = 0#32

section
variable {f : Biquad}

theorem Biquad.Identity.asr_acc (h : f.Identity) (x : Word) : asr (f.acc x) Config.cfrac = x.toInt := by
  have hone : (0x40000000#32 : Word).toInt = 2 ^ Config.cfrac := by decide
  have hacc : f.acc x = 2 ^ Config.cfrac * x.toInt := by
    simp only [Biquad.acc, h.b0, h.b1, h.b2, h.a1, h.a2, hone, BitVec.toInt_zero, zero_mul, add_zero, sub_zero]
  rw [asr, hacc]
  exact Int.mul_ediv_cancel_left _ (by decide)

theorem Biquad.Identity.out_eq (h : f.Identity) (x : Word) : f.out x = x := by
  obtain ⟨hmin, hmax⟩ := word_toInt_range x
  rw [Biquad.out, h.asr_acc, sat32_of_range hmin hmax, toReg_toInt_self]

theorem Biquad.Identity.clips_eq_false (h : f.Identity) (x : Word) : f.clips x = false := by
  obtain ⟨hmin, hmax⟩ := word_toInt_range x
  rw [Biquad.clips, h.asr_acc, sat32Clips_eq_false hmin hmax]

end

/-- The magnitude of a sample in Q23.8 is far from the bounds of s32. -/
theorem abs_pcmWord (pcm : Half) : |(pcmWord pcm).toInt| = |pcm.toInt| * 256 := by
  rw [pcmWord_toInt, abs_mul]
  rfl

theorem abs_pcmWord_range (pcm : Half) :
    -2147483648 ≤ |(pcmWord pcm).toInt| ∧ |(pcmWord pcm).toInt| ≤ 2147483647 := by
  obtain ⟨hmin, hmax⟩ := half_toInt_range pcm
  have hnonneg : 0 ≤ |pcm.toInt| := abs_nonneg _
  have hle : |pcm.toInt| ≤ 32768 := abs_le.2 ⟨hmin, by omega⟩
  rw [abs_pcmWord]
  omega

/-- Settles O21: both sections pass their sample on, and the rectifier's input is far from -2^31. -/
theorem identityChainIsTheMagnitude : Obligations.IdentityChainIsTheMagnitude := by
  intro pcm s hb0 hb1 hb2 ha1 ha2 hl0 hl1 hl2 hm1 hm2
  have hbpf : s.bpf.Identity := ⟨hb0, hb1, hb2, ha1, ha2⟩
  have hlpf : s.lpf.Identity := ⟨hl0, hl1, hl2, hm1, hm2⟩
  obtain ⟨hmin, hmax⟩ := abs_pcmWord_range pcm
  have hband : s.bandOut pcm = pcmWord pcm := hbpf.out_eq _
  have henvelope : s.envelope pcm = BitVec.ofInt 32 (|pcm.toInt| * 256) := by
    rw [State.envelope, hband, hlpf.out_eq, rectify, sat32_of_range hmin hmax, abs_pcmWord]
    rfl
  have hclips : s.chainClips pcm = false := by
    rw [State.chainClips, hbpf.clips_eq_false, hlpf.clips_eq_false, hband, rectifyClips, sat32Clips_eq_false hmin hmax]
    rfl
  refine ⟨_, exec_fltStep pcm s, ?_, ?_⟩
  · rw [hclips, Bool.or_false]
  · rw [henvelope]

/-! ## The normalizer's update in integers (42_normalizer.md R171)

`Normalizer.update_cases` gives the three cases of step 3; here the two new ends are one integer expression each. -/

/-- SMAX after the update, step 3 included. -/
def Normalizer.newMax (n : Normalizer) (es : List Word) : Int :=
  if n.widenedMax es ≤ n.widenedMin es ∧ n.widenedMax es - n.eps.toNat < -2147483648 then -2147483648 + n.eps.toNat
  else n.widenedMax es

/-- SMIN after the update, step 3 included. -/
def Normalizer.newMin (n : Normalizer) (es : List Word) : Int :=
  if n.widenedMax es ≤ n.widenedMin es then
    if n.widenedMax es - n.eps.toNat < -2147483648 then -2147483648 else n.widenedMax es - n.eps.toNat
  else n.widenedMin es

section
variable (n : Normalizer) (es : List Word)

theorem Normalizer.update_toInt :
    (n.update es).smax.toInt = n.newMax es ∧ (n.update es).smin.toInt = n.newMin es := by
  unfold Normalizer.newMax Normalizer.newMin
  obtain ⟨-, -, hcases⟩ := n.update_cases es
  rcases hcases with ⟨hwide, hmax, hmin⟩ | ⟨hnarrow, hroom, hmax, hmin⟩ | ⟨hnarrow, hedge, hmax, hmin⟩
  · rw [hmax, hmin, if_neg (by omega), if_neg (by omega)]
    exact ⟨rfl, rfl⟩
  · rw [hmax, hmin, if_neg (by omega), if_pos hnarrow, if_neg (by omega)]
    exact ⟨rfl, rfl⟩
  · rw [hmax, hmin, if_pos ⟨hnarrow, hedge⟩, if_pos hnarrow, if_pos hedge]
    exact ⟨rfl, rfl⟩

theorem Normalizer.update_eq :
    n.update es = { n with smax := BitVec.ofInt 32 (n.newMax es), smin := BitVec.ofInt 32 (n.newMin es) } := by
  obtain ⟨hdecay, heps⟩ := n.update_config es
  obtain ⟨hmax, hmin⟩ := n.update_toInt es
  rw [← eq_ofInt_of_toInt_eq hmax, ← eq_ofInt_of_toInt_eq hmin, ← hdecay, ← heps]

theorem Normalizer.clips_eq :
    n.clips = decide (sat32 n.decayedMax ≠ n.decayedMax ∨ sat32 n.decayedMin ≠ n.decayedMin) := by
  rw [Normalizer.clips, sat32Clips_eq_decide_ne, sat32Clips_eq_decide_ne, Bool.decide_or]

variable {n es}

/-- Step 3 separates the ends (the inference of R171). -/
theorem Normalizer.newMin_lt_newMax (heps : 1 ≤ n.eps.toNat) : n.newMin es < n.newMax es := by
  unfold Normalizer.newMax Normalizer.newMin
  split_ifs <;> omega

/-- Step 2 puts every value of the block between the ends, and step 3 only moves them apart. -/
theorem Normalizer.mem_between {e : Word} (he : e ∈ es) : n.newMin es ≤ e.toInt ∧ e.toInt ≤ n.newMax es := by
  have hmax : e.toInt ≤ n.widenedMax es := (foldl_max_spec es _).2.1 e he
  have hmin : n.widenedMin es ≤ e.toInt := (foldl_min_spec es _).2.1 e he
  have hrange := (word_toInt_range e).1
  unfold Normalizer.newMax Normalizer.newMin
  split_ifs <;> omega

end

/-- Settles O22: `hi` and `lo` are the widened ends, the extremes of the folds over the block. -/
theorem normUpdateFollowsTheRule : Obligations.NormUpdateFollowsTheRule := by
  intro s es _ heps clamp m l eps
  have hclampMax : sat32 s.norm.decayedMax = clamp m := sat32_eq _
  have hclampMin : sat32 s.norm.decayedMin = clamp l := sat32_eq _
  obtain ⟨hmax, hmin⟩ := s.norm.update_toInt es
  refine ⟨s.norm.widenedMax es, s.norm.widenedMin es, ?_, ?_, ?_, ?_, ?_⟩
  · rw [← hclampMax]
    exact foldl_max_spec es _
  · rw [← hclampMin]
    exact foldl_min_spec es _
  · rw [State.normUpdate, Normalizer.update_eq, Normalizer.clips_eq, hclampMax, hclampMin]
    rfl
  · rw [State.normUpdate_norm, hmax, hmin]
    exact Normalizer.newMin_lt_newMax heps
  · intro e he
    rw [State.normUpdate_norm, hmax, hmin]
    exact Normalizer.mem_between he

/-- The rescale of a value of the block after the update (R172, R173). -/
theorem Normalizer.rescale_update_eq {n : Normalizer} {es : List Word} {e : Word} (heps : 1 ≤ n.eps.toNat)
    (he : e ∈ es) : (n.update es).rescale e = BitVec.ofInt 32
      (min 1073741823 ((e.toInt - n.newMin es) * 2 ^ 30 / (n.newMax es - n.newMin es))) := by
  obtain ⟨hmax, hmin⟩ := n.update_toInt es
  have hnonneg : 0 ≤ (n.update es).quotient e := by
    apply Normalizer.quotient_nonneg
    · rw [hmax, hmin]
      exact Normalizer.newMin_lt_newMax heps
    · rw [hmin]
      exact (Normalizer.mem_between he).1
  have hvalue := Normalizer.rescale_toNat hnonneg
  rw [Normalizer.quotient, hmax, hmin] at hvalue
  rw [← hvalue, BitVec.ofInt_natCast, BitVec.ofNat_toNat, BitVec.setWidth_eq]

/-- Settles O24: on a block of one the folds are one `max` and one `min`. -/
theorem nrmStepResult : Obligations.NrmStepResult := by
  intro e s heps clamp m l eps hi lo smax smin n
  have hclampMax : sat32 s.norm.decayedMax = clamp m := sat32_eq _
  have hclampMin : sat32 s.norm.decayedMin = clamp l := sat32_eq _
  have hhi : s.norm.widenedMax [e] = hi := congrArg (max · e.toInt) hclampMax
  have hlo : s.norm.widenedMin [e] = lo := congrArg (min · e.toInt) hclampMin
  have hsmax : s.norm.newMax [e] = smax := by rw [Normalizer.newMax, hhi, hlo]
  have hsmin : s.norm.newMin [e] = smin := by rw [Normalizer.newMin, hhi, hlo]
  have hexec : exec (.nrmStep e) s =
      .next ((s.normUpdate [e]).respond .ok 0x18#8 0#16 ((s.norm.update [e]).rescale e)) := rfl
  rw [hexec, Normalizer.rescale_update_eq heps (List.mem_singleton_self e), State.normUpdate, Normalizer.update_eq,
    Normalizer.clips_eq, hclampMax, hclampMin, hsmax, hsmin]
  rfl

/-! ## The decay moves toward zero (42_normalizer.md R178) -/

/-- What the decay takes off an end is at most the end's magnitude, for a legal NORM_DECAY. -/
theorem decayPart_range {a : Int} {d : Nat} (hd : d ≤ 65535) : 0 ≤ asr (|a| * d) 16 ∧ asr (|a| * d) 16 ≤ |a| := by
  have habs : 0 ≤ |a| := abs_nonneg a
  have hmul : |a| * d ≤ |a| * 2 ^ 16 := mul_le_mul_of_nonneg_left (by omega) habs
  exact ⟨Int.ediv_nonneg (by positivity) (by decide), Int.ediv_le_of_le_mul (by decide) hmul⟩

theorem Normalizer.decayed_range {n : Normalizer} (hmin : n.smin.toInt ≤ 0) (hmax : 0 ≤ n.smax.toInt)
    (hdecay : n.decay.toNat ≤ 65535) :
    (0 ≤ n.decayedMax ∧ n.decayedMax ≤ n.smax.toInt) ∧ n.smin.toInt ≤ n.decayedMin ∧ n.decayedMin ≤ 0 := by
  have hpartMax := decayPart_range (a := n.smax.toInt) hdecay
  have hpartMin := decayPart_range (a := n.smin.toInt) hdecay
  have habsMax := abs_of_nonneg hmax
  have habsMin := abs_of_nonpos hmin
  unfold Normalizer.decayedMax Normalizer.decayedMin
  omega

/-- Settles O25: what the decay takes off is at most the magnitude, so both decayed ends stay inside s32. -/
theorem normDecayTowardZero : Obligations.NormDecayTowardZero := by
  intro n hmin hmax hdecay
  obtain ⟨⟨hmax0, hmax1⟩, hmin0, hmin1⟩ := Normalizer.decayed_range hmin hmax hdecay
  have hrangeMax := word_toInt_range n.smax
  have hrangeMin := word_toInt_range n.smin
  refine ⟨hmax0, hmax1, hmin0, hmin1, ?_⟩
  rw [Normalizer.clips, sat32Clips_eq_false (by omega) (by omega), sat32Clips_eq_false (by omega) (by omega)]
  rfl

end Sys2Proof.Machine

namespace Sys2Proof.Machine

/-! ## TRK_INIT and the threshold reads (43_threshold_tracker.md R191, R193, R197 to R199) -/

theorem Tracker.configLegal_iff (t : Tracker) :
    t.configLegal = true ↔ t.decayStep.toNat ≠ 0 ∧ t.minRange.toNat > 2 * t.decayStep.toNat :=
  decide_eq_true_iff

/-- Settles O26: the check of R191 decides between the start and the `raise`. -/
theorem trkInitStartsOrRejects : Obligations.TrkInitStartsOrRejects := by
  intro s
  constructor
  · intro hstep hrange
    exact if_pos (s.trk.configLegal_iff.2 ⟨hstep, hrange⟩)
  · intro hillegal
    have hrejected : ¬ s.trk.configLegal = true := by
      rw [Tracker.configLegal_iff]
      omega
    exact if_neg hrejected

/-- Settles O28: the three reads answer the model's thresholds, and the order is that of the floored halves and
quarters of the range. -/
theorem trkReadsThresholds : Obligations.TrkReadsThresholds := by
  intro s hready lo hi mid neg
  have hchecked : ¬ (!s.status.trkReady) = true := by simp [hready]
  refine ⟨if_neg hchecked, if_neg hchecked, if_neg hchecked, ?_⟩
  omega

/-! ## A sound range (43_threshold_tracker.md R200, R201)

From a sound range the two ends after step 2 fit their registers, are not crossed and hold the sample, so step 3 changes
nothing. All of it is linear in the ends, as the range is above twice the step where an end moves. -/

section
variable {t : Tracker} {x : Int}

/-- The two ends after step 2, for a legal sample. -/
theorem Tracker.Sound.decayed_range (h : t.Sound) (h0 : 0 ≤ x) (h1 : x ≤ 2147483647) :
    -1 ≤ (t.widen x).decayedMin x ∧ (t.widen x).decayedMin x ≤ x ∧ x ≤ (t.widen x).decayedMax x
      ∧ (t.widen x).decayedMin x < (t.widen x).decayedMax x := by
  obtain ⟨hstep, hrange, hmin, hlt⟩ := h
  obtain ⟨hwmin, hwmax, hwstep, hwrange⟩ := t.widen_toInt h0 h1
  simp only [Tracker.decayedMin, Tracker.decayedMax, Tracker.range, Tracker.mid, asr, hwmin, hwmax, hwstep, hwrange]
  split_ifs <;> omega

/-- A moved end takes at most TRK_DECAY_STEP off a range of at least TRK_MIN_RANGE. -/
theorem Tracker.Sound.decayed_floor (h : t.Sound) (h0 : 0 ≤ x) (h1 : x ≤ 2147483647)
    (hfloor : (t.minRange.toNat : Int) - t.decayStep.toNat ≤ t.range) :
    (t.minRange.toNat : Int) - t.decayStep.toNat ≤ (t.widen x).decayedMax x - (t.widen x).decayedMin x := by
  obtain ⟨hwmin, hwmax, hwstep, hwrange⟩ := t.widen_toInt h0 h1
  simp only [Tracker.decayedMin, Tracker.decayedMax, Tracker.range, Tracker.mid, asr, hwmin, hwmax, hwstep, hwrange]
    at hfloor ⊢
  split_ifs <;> omega

theorem Tracker.Sound.update_toInt (h : t.Sound) (h0 : 0 ≤ x) (h1 : x ≤ 2147483647) :
    (t.update x).tmin.toInt = (t.widen x).decayedMin x ∧ (t.update x).tmax.toInt = (t.widen x).decayedMax x
      ∧ t.corrects x = false := by
  obtain ⟨hlow, hmin, hmax, hlt⟩ := h.decayed_range h0 h1
  obtain ⟨hmin', hmax', hcorrects⟩ := Tracker.update_toInt (t := t) (x := x) (by omega) (by omega)
  rw [min_eq_left hlt.le] at hmin'
  rw [max_eq_right hlt.le] at hmax'
  exact ⟨hmin', hmax', hcorrects.trans (decide_eq_false hlt.not_gt)⟩

theorem Tracker.Sound.update (h : t.Sound) (h0 : 0 ≤ x) (h1 : x ≤ 2147483647) : (t.update x).Sound := by
  obtain ⟨hlow, -, -, hlt⟩ := h.decayed_range h0 h1
  obtain ⟨hmin, hmax, -⟩ := h.update_toInt h0 h1
  obtain ⟨hstep, hrange⟩ := t.update_config x
  obtain ⟨hlegalStep, hlegalRange, -⟩ := h
  rw [← hmin] at hlow
  rw [← hmin, ← hmax] at hlt
  exact ⟨by rwa [hstep], by rwa [hstep, hrange], hlow, hlt⟩

end

/-- Settles O30: the ends after the update are the decayed ends, and those hold the sample. -/
theorem trackerHoldsTheSample : Obligations.TrackerHoldsTheSample := by
  intro t x hsound h0 h1
  obtain ⟨-, hmin, hmax, -⟩ := hsound.decayed_range h0 h1
  obtain ⟨htmin, htmax, hcorrects⟩ := hsound.update_toInt h0 h1
  exact ⟨hsound.update h0 h1, htmin.trans_le hmin, hmax.trans_eq htmax.symm, hcorrects⟩

/-- The floor of R201 is kept by every list of legal samples. -/
theorem Tracker.Sound.foldl_floor : ∀ {xs : List Int} {t : Tracker}, t.Sound →
    (t.minRange.toNat : Int) - t.decayStep.toNat ≤ t.range → (∀ x ∈ xs, 0 ≤ x ∧ x ≤ 2147483647) →
    (t.minRange.toNat : Int) - t.decayStep.toNat ≤ (xs.foldl Tracker.update t).range
  | [], _, _, hfloor, _ => hfloor
  | x :: xs, t, hsound, hfloor, hlegal => by
    obtain ⟨⟨h0, h1⟩, hrest⟩ := List.forall_mem_cons.1 hlegal
    obtain ⟨hmin, hmax, -⟩ := hsound.update_toInt h0 h1
    obtain ⟨hstep, hrange⟩ := t.update_config x
    have hkept := hsound.decayed_floor h0 h1 hfloor
    rw [← hmin, ← hmax, ← hstep, ← hrange] at hkept
    rw [← hstep, ← hrange]
    exact foldl_floor (hsound.update h0 h1) hkept hrest

/-- Settles O31: a range of at least TRK_MIN_RANGE is above the floor, and the floor is kept. -/
theorem trackerRangeFloor : Obligations.TrackerRangeFloor := by
  intro t xs hsound hrange hlegal
  exact hsound.foldl_floor (by omega) hlegal

/-! ## A constant sample stream (44_edge_detector.md section 4)

A stream of 0 starts Below and keeps the range -1 .. +1 with its midpoint 0; any other stream starts Above and keeps the
upper end at the sample. In neither does the sample ever pass the threshold of the other side. -/

/-- What a constant stream of `x` keeps after TRK_INIT. -/
structure ConstantStream (x : Nat) (s : State) : Prop where
  ready : s.status.trkReady = true
  sound : s.trk.Sound
  side : (x = 0 ∧ s.trk.tmin.toInt = -1 ∧ s.trk.tmax.toInt = 1 ∧ (s.status.edgeValid = true → s.status.below = true))
    ∨ (0 < x ∧ s.trk.tmax.toInt ≤ x ∧ (s.status.edgeValid = true → s.status.below = false))

theorem Tracker.Sound.update_zero {t : Tracker} (h : t.Sound) (hmin : t.tmin.toInt = -1) (hmax : t.tmax.toInt = 1) :
    (t.update 0).tmin.toInt = -1 ∧ (t.update 0).tmax.toInt = 1 := by
  obtain ⟨htmin, htmax, -⟩ := h.update_toInt le_rfl (by decide)
  obtain ⟨hwmin, hwmax, hwstep, hwrange⟩ := t.widen_toInt (x := 0) le_rfl (by decide)
  obtain ⟨hstep, hrange, -, -⟩ := h
  rw [htmin, htmax]
  simp only [Tracker.decayedMin, Tracker.decayedMax, Tracker.range, hwmin, hwmax, hwstep, hwrange, hmin, hmax]
  constructor <;> rw [if_neg] <;> omega

theorem Tracker.Sound.update_tmax {t : Tracker} {x : Int} (h : t.Sound) (h0 : 0 ≤ x) (h1 : x ≤ 2147483647)
    (hmax : t.tmax.toInt ≤ x) : (t.update x).tmax.toInt = x := by
  obtain ⟨-, htmax, -⟩ := h.update_toInt h0 h1
  obtain ⟨hwmin, hwmax, hwstep, hwrange⟩ := t.widen_toInt h0 h1
  rw [htmax]
  simp only [Tracker.decayedMax, Tracker.range, Tracker.mid, asr, hwmin, hwmax, hwstep, hwrange]
  rw [if_neg] <;> omega

section
variable {x : Nat} {s : State}

theorem ConstantStream.no_edge (h : ConstantStream x s) (hx : x ≤ 2147483647) :
    ¬ (s.trkUpdate x).edgeRises x = true ∧ ¬ (s.trkUpdate x).edgeFalls x = true := by
  obtain ⟨-, hsound, hside⟩ := h
  obtain ⟨-, -, -, hlt⟩ := hsound.update (x := x) (by omega) (by omega)
  rw [State.edgeRises_iff, State.edgeFalls_iff, Tracker.pos_eq, Tracker.neg_eq]
  simp only [State.trkUpdate_status, State.trkUpdate_trk, Status.recordCorrection_edgeValid,
    Status.recordCorrection_below]
  rcases hside with ⟨rfl, hmin, hmax, hbelow⟩ | ⟨hpos, hmax, habove⟩
  · obtain ⟨htmin, htmax⟩ := hsound.update_zero hmin hmax
    simp only [Nat.cast_zero, htmin, htmax]
    refine ⟨by omega, fun ⟨hvalid, hfalse, _⟩ => ?_⟩
    simp [hbelow hvalid] at hfalse
  · have htmax := hsound.update_tmax (x := x) (by omega) (by omega) hmax
    refine ⟨fun ⟨hvalid, htrue, _⟩ => ?_, by omega⟩
    simp [habove hvalid] at htrue

theorem ConstantStream.respond (h : ConstantStream x s) (c : StatusCode) (opc : Byte) (aux : Half) (r : Word) :
    ConstantStream x (s.respond c opc aux r) :=
  ⟨h.ready, h.sound, h.side⟩

theorem ConstantStream.nstepEvent_eq (h : ConstantStream x s) (hx : x ≤ 2147483647) : s.nstepEvent x = 0#32 :=
  State.edgeEvent_of_stays (h.no_edge hx).1 (h.no_edge hx).2

theorem ConstantStream.nstepCore_eq (h : ConstantStream x s) (hx : x ≤ 2147483647) :
    s.nstepCore x = (s.trkUpdate x).edgeUpdate x := by
  rcases s.nstepCore_cases x with ⟨-, hcore⟩ | ⟨hevent, -⟩
  · exact hcore
  · exact absurd (h.nstepEvent_eq hx) hevent

/-- The tracker's part of the step. -/
theorem ConstantStream.trkUpdate (h : ConstantStream x s) (hx : x ≤ 2147483647) :
    ConstantStream x (s.trkUpdate x) := by
  obtain ⟨hready, hsound, hside⟩ := h
  refine ⟨hready, hsound.update (by omega) (by omega), ?_⟩
  rcases hside with ⟨rfl, hmin, hmax, hbelow⟩ | ⟨hpos, hmax, habove⟩
  · obtain ⟨htmin, htmax⟩ := hsound.update_zero hmin hmax
    exact .inl ⟨rfl, htmin, htmax, hbelow⟩
  · exact .inr ⟨hpos, (hsound.update_tmax (by omega) (by omega) hmax).le, habove⟩

/-- The detector's part: the first sample sets the state, a later one only counts. -/
theorem ConstantStream.edgeUpdate (h : ConstantStream x s) (hrises : ¬ s.edgeRises x = true)
    (hfalls : ¬ s.edgeFalls x = true) : ConstantStream x (s.edgeUpdate x) := by
  rw [State.edgeRises_iff] at hrises
  rw [State.edgeFalls_iff] at hfalls
  obtain ⟨hready, hsound, hside⟩ := h
  rcases s.edgeUpdate_cases x with ⟨-, hstate⟩ | ⟨hv, hb, hx, -⟩ | ⟨hv, hb, hx, -⟩ | ⟨hvalid, -, -, hstate⟩
  · rw [hstate]
    refine ⟨hready, hsound, ?_⟩
    rcases hside with ⟨h0, hmin, hmax, -⟩ | ⟨hpos, hmax, -⟩
    · exact .inl ⟨h0, hmin, hmax, fun _ => decide_eq_true (by omega)⟩
    · exact .inr ⟨hpos, hmax, fun _ => decide_eq_false (by omega)⟩
  · exact absurd ⟨hv, hb, hx⟩ hrises
  · exact absurd ⟨hv, hb, hx⟩ hfalls
  · rw [hstate]
    exact ⟨hready, hsound, hside⟩

theorem ConstantStream.nstepCore (h : ConstantStream x s) (hx : x ≤ 2147483647) : ConstantStream x (s.nstepCore x) := by
  rw [h.nstepCore_eq hx]
  exact (h.trkUpdate hx).edgeUpdate (h.no_edge hx).1 (h.no_edge hx).2

end

/-! ### Running lists of commands -/

theorem execAll_cons {i : Instr} {rest : List Instr} {s t : State} (h : exec i s = .next t) :
    execAll (i :: rest) s = execAll rest t := by
  simp only [execAll, h]

theorem resultsSince_of_append {s t : State} {rs : List CmdWord} (h : t.rsp = s.rsp ++ rs) :
    resultsSince s t = rs.map rspResult := by
  rw [resultsSince, h, List.drop_left]

/-- Any number of NSTEPs of a constant stream: no event, and nothing queued. -/
theorem ConstantStream.execAll_replicate {sample : Word} {s : State} (h : ConstantStream sample.toNat s)
    (hsample : sample.toNat ≤ 0x7FFFFFFF) (k : Nat) :
    ∃ t rs, execAll (List.replicate k (.nstep sample)) s = some t ∧ t.queue = s.queue ∧ t.rsp = s.rsp ++ rs
      ∧ rs.map rspResult = List.replicate k 0#32 := by
  induction k generalizing s with
  | zero => exact ⟨s, [], rfl, rfl, (List.append_nil _).symm, rfl⟩
  | succ k ih =>
    have hexec := exec_nstep_of_legalSample h.ready ((sampleLegal_iff sample).2 hsample)
    obtain ⟨hqueue, -, hrsp⟩ := s.edgeUpdate_trkUpdate_keeps (x := sample.toNat)
    rw [h.nstepEvent_eq hsample, h.nstepCore_eq hsample] at hexec
    have hnext : ConstantStream sample.toNat ((s.trkUpdate sample.toNat).edgeUpdate sample.toNat) :=
      h.nstepCore_eq hsample ▸ h.nstepCore hsample
    obtain ⟨t, rs, hrun, htqueue, htrsp, hresults⟩ := ih (hnext.respond _ _ _ _)
    rw [State.respond_rsp, hrsp, List.append_assoc, List.singleton_append] at htrsp
    refine ⟨t, _, (execAll_cons hexec).trans hrun, htqueue.trans hqueue, htrsp, ?_⟩
    rw [List.map_cons, hresults, rspResult_responseWord, List.replicate_succ]

/-- TRK_INIT starts the stream: the range is -1 .. +1 and no sample has been compared. -/
theorem constantStream_of_trkInit {s0 s : State} (x : Nat) (hstep : s0.trk.decayStep.toNat ≠ 0)
    (hrange : 2 * s0.trk.decayStep.toNat < s0.trk.minRange.toNat) (hinit : exec .trkInit s0 = .next s) :
    ConstantStream x s ∧ s.queue = s0.queue := by
  rw [(trkInitStartsOrRejects s0).1 hstep hrange] at hinit
  cases hinit
  have hmin : (0xFFFFFFFF#32 : Word).toInt = -1 := by decide
  have hmax : (1#32 : Word).toInt = 1 := by decide
  refine ⟨⟨rfl, ⟨hstep, hrange, hmin.ge, ?_⟩, ?_⟩, rfl⟩
  · exact hmin.trans_lt (hmax.symm ▸ by decide)
  · rcases Nat.eq_zero_or_pos x with h0 | hpos
    · exact .inl ⟨h0, hmin, hmax, nofun⟩
    · exact .inr ⟨hpos, hmax.trans_le (by omega), fun _ => rfl⟩

/-- Settles O35: TRK_INIT leaves a state with the stream's property, and the stream keeps it. -/
theorem constantStreamEmitsNoEdge : Obligations.ConstantStreamEmitsNoEdge := by
  intro s0 s sample k hstep hrange hinit hsample
  obtain ⟨hstream, hqueue0⟩ := constantStream_of_trkInit sample.toNat hstep hrange hinit
  obtain ⟨t, rs, hrun, hqueue, hrsp, hresults⟩ := hstream.execAll_replicate hsample k
  exact ⟨t, hrun, hqueue.trans hqueue0, (resultsSince_of_append hrsp).trans hresults⟩

/-! ## EVT_SUBMIT (45_block_and_queue.md R245; 10_state.md R61) -/

theorem State.queueFull_eq_false_iff (s : State) : s.queueFull = false ↔ s.queue.length ≠ 16 := by
  rw [Bool.eq_false_iff, Ne, State.queueFull_iff]

/-- A non-zero event is pushed, and the response tells whether the queue was full. -/
theorem exec_evtSubmit_of_ne_zero {ev : Word} (hev : ev ≠ 0#32) (s : State) : exec (.evtSubmit ev) s =
    .next ((s.queuePush ev).respond (if s.queueFull then .qfull else .ok) 0x32#8 0#16 0#32) := by
  cases hfull : s.queueFull <;> simp [exec, execEvtSubmit, hev, hfull]

/-- Settles O37: the three outcomes are the operand check and the two outcomes of the push. -/
theorem evtSubmitQueuesOrDrops : Obligations.EvtSubmitQueuesOrDrops := by
  intro ev s
  refine ⟨fun hzero => if_pos hzero, fun hev hroom => ?_, fun hev hfull => ?_⟩
  · rcases s.queuePush_cases ev with ⟨-, hpush⟩ | ⟨hfull, -⟩
    · rw [exec_evtSubmit_of_ne_zero hev, hpush, s.queueFull_eq_false_iff.2 hroom]
      rfl
    · exact absurd hfull hroom
  · rcases s.queuePush_cases ev with ⟨hroom, -⟩ | ⟨-, hpush⟩
    · exact absurd hfull hroom
    · rw [exec_evtSubmit_of_ne_zero hev, hpush, s.queueFull_iff.2 hfull, satu32_eq, min_comm]
      rfl

end Sys2Proof.Machine

namespace Sys2Proof.Machine

/-! ## The histogram under decay and counting (46_histogram.md R262, R263, R266)

Both keep the configuration and the number of cells, and touch no cell from HIST_NBINS on. -/

section
variable {h : Histogram}

theorem Histogram.Sound.decayAll (hs : h.Sound) : h.decayAll.Sound := by
  obtain ⟨hlength, hrest⟩ := hs
  exact ⟨h.decayAll_length.trans hlength, hrest⟩

theorem Histogram.Sound.count (hs : h.Sound) (i : Nat) : (h.count i).Sound := by
  obtain ⟨hlength, hrest⟩ := hs
  exact ⟨(h.count_length i).trans hlength, hrest⟩

/-- A duration in range has a used bin (R263). -/
theorem Histogram.Sound.index_lt (hs : h.Sound) {d i : Nat} (hi : h.index d = some i) : i < h.nbins.toNat := by
  obtain ⟨-, hone, -⟩ := hs
  rcases h.index_cases d with ⟨-, hnone⟩ | ⟨-, -, hsome⟩
  · simp [hnone] at hi
  · rw [hsome, Option.some.injEq] at hi
    omega

theorem Histogram.Sound.add (hs : h.Sound) (d : Nat) : (h.add d).Sound := by
  rcases h.add_cases d with ⟨-, hadd⟩ | ⟨i, -, hadd⟩ <;> rw [hadd]
  · exact hs.decayAll
  · exact hs.decayAll.count i

theorem Histogram.Sound.drop_decayAll (hs : h.Sound) :
    h.decayAll.bins.drop h.nbins.toNat = h.bins.drop h.nbins.toNat := by
  obtain ⟨hlength, -, hbins, -⟩ := hs
  rw [Histogram.decayAll_bins]
  exact List.drop_left' (by rw [List.length_map, List.length_take_of_le (by omega)])

theorem Histogram.drop_count {i : Nat} (hi : i < h.nbins.toNat) :
    (h.count i).bins.drop h.nbins.toNat = h.bins.drop h.nbins.toNat := by
  rw [Histogram.count_bins]
  exact List.drop_set_of_lt hi

theorem Histogram.add_config (d : Nat) : (h.add d).minVal = h.minVal ∧ (h.add d).maxVal = h.maxVal
    ∧ (h.add d).nbins = h.nbins ∧ (h.add d).spread = h.spread ∧ (h.add d).decay = h.decay
    ∧ (h.add d).tCur = h.tCur := by
  rcases h.add_cases d with ⟨-, hadd⟩ | ⟨i, -, hadd⟩ <;> rw [hadd] <;> exact ⟨rfl, rfl, rfl, rfl, rfl, rfl⟩

theorem Histogram.Sound.drop_add (hs : h.Sound) (d : Nat) :
    (h.add d).bins.drop (h.add d).nbins.toNat = h.bins.drop h.nbins.toNat := by
  rcases h.add_cases d with ⟨-, hadd⟩ | ⟨i, hi, hadd⟩ <;> rw [hadd]
  · exact hs.drop_decayAll
  · exact (Histogram.drop_count (h := h.decayAll) (hs.index_lt hi)).trans hs.drop_decayAll

theorem Histogram.configLegal_iff : h.configLegal = true ↔
    1 ≤ h.nbins.toNat ∧ h.nbins.toNat ≤ 256 ∧ h.minVal.toNat < h.maxVal.toNat ∧ 1 ≤ h.decay.toNat
      ∧ h.decay.toNat ≤ 65536 ∧ 2 * h.spread.toNat + 2 ≤ h.nbins.toNat :=
  decide_eq_true_iff

end

/-! ## The invariants of 10_state.md R71, operation by operation

Together with the invariants goes what R317 infers from them: on a state that satisfies them CORR is not set. -/

/-- `u` satisfies the invariants, and CORR is not 1 in `u` unless it was in `s`. -/
structure SoundMove (s u : State) : Prop where
  inv : u.Inv
  corr : u.status.corr = true → s.status.corr = true

theorem SoundMove.trans {s u v : State} (h1 : SoundMove s u) (h2 : SoundMove u v) : SoundMove s v :=
  ⟨h2.inv, h1.corr ∘ h2.corr⟩

section
variable {s : State}

theorem State.Inv.respond (h : s.Inv) (c : StatusCode) (opc : Byte) (aux : Half) (r : Word) :
    (s.respond c opc aux r).Inv := h

/-- A failure writes ERR or ILLCMD, and no invariant reads those (R312). -/
theorem Status.recordFailure_frame (st : Status) (c : StatusCode) :
    ∃ err illcmd, st.recordFailure c = { st with err := err, illcmd := illcmd } := by
  cases c with
  | ok | empty | qfull => exact ⟨st.err, st.illcmd, rfl⟩
  | invalidArg | notInit | badReg | addrErr | notIdle => exact ⟨true, st.illcmd, rfl⟩
  | illegalCmd => exact ⟨st.err, true, rfl⟩

theorem State.Inv.recordFailure (h : s.Inv) (c : StatusCode) :
    SoundMove s { s with status := s.status.recordFailure c } := by
  obtain ⟨err, illcmd, hst⟩ := s.status.recordFailure_frame c
  rw [hst]
  exact ⟨h, id⟩

/-- The state after reset satisfies the invariants: no READY bit, no event, 256 empty cells. -/
theorem State.afterReset_inv {aud : Memory} (hwf : aud.wf = true) : (State.afterReset aud).Inv := by
  have hconfig : (1 ≤ (26#32 : Word).toNat ∧ (26#32 : Word).toNat ≤ 65536) ∧ (655#32 : Word).toNat ≤ 65535 := by decide
  have hctrl : (2#32 : Word).extractLsb' 2 30 = 0#30 := by decide
  have hzero : (0#32 : Word).toInt = 0 := rfl
  exact ⟨⟨Nat.zero_le _, nofun⟩, nofun, ⟨nofun, fun _ => ⟨rfl, rfl⟩⟩, ⟨List.length_replicate, nofun⟩,
    ⟨hconfig.1.1, hconfig.1.2, hconfig.2, hctrl⟩, ⟨.inr ⟨rfl, rfl⟩, hzero.le, hzero.ge⟩, hwf⟩

/-! ### WRREG (40_control_commands.md R132) -/

/-- A guarded tracker register drops TRK_READY, and without it nothing is asked of the tracker (R24). -/
theorem State.Inv.writeTracker (h : s.Inv) (t : Tracker) :
    SoundMove s { s with trk := t, status := { s.status with trkReady := false } } := by
  obtain ⟨hqueue, -, hedge, hhist, hconfig, hnorm, haud⟩ := h
  exact ⟨⟨hqueue, nofun, hedge, hhist, hconfig, hnorm, haud⟩, id⟩

/-- A guarded histogram register drops HIST_READY; what is left to keep is the number of cells (R24). -/
theorem State.Inv.writeHistogram (h : s.Inv) {g : Histogram} (hbins : g.bins = s.hist.bins) :
    SoundMove s { s with hist := g, status := { s.status with histReady := false } } := by
  obtain ⟨hqueue, htrk, hedge, ⟨hlength, -⟩, hconfig, hnorm, haud⟩ := h
  exact ⟨⟨hqueue, htrk, hedge, ⟨hbins ▸ hlength, nofun⟩, hconfig, hnorm, haud⟩, id⟩

/-- A value that passes WRREG's check keeps the configuration legal (R71 item 5). -/
theorem State.Inv.writeConfig (h : s.Inv) {ctrl : Word} {n : Normalizer} (hctrl : ctrl.extractLsb' 2 30 = 0#30)
    (hdecay : n.decay.toNat ≤ 65535) (heps : 1 ≤ n.eps.toNat ∧ n.eps.toNat ≤ 65536)
    (hends : n.smin = s.norm.smin ∧ n.smax = s.norm.smax) : SoundMove s { s with ctrl := ctrl, norm := n } := by
  obtain ⟨hqueue, htrk, hedge, hhist, -, hnorm, haud⟩ := h
  obtain ⟨hmin, hmax⟩ := hends
  refine ⟨⟨hqueue, htrk, hedge, hhist, ⟨heps.1, heps.2, hdecay, hctrl⟩, ?_, haud⟩, id⟩
  simpa only [State.NormInv, hmin, hmax] using hnorm

theorem State.Inv.writeReg (h : s.Inv) {r : Reg} {v : Word} (hlegal : r.rejects v = false) :
    SoundMove s (s.writeReg r v) := by
  have ⟨_, _, _, _, ⟨heps1, heps2, hdecay, hctrl⟩, _, _⟩ := h
  cases r with
  | STATUS => exact ⟨h, fun hcorr => (Bool.and_eq_true_iff.1 hcorr).1⟩
  | CTRL =>
    have hv : v.extractLsb' 2 30 = 0#30 := by simpa [Reg.rejects] using hlegal
    exact h.writeConfig hv hdecay ⟨heps1, heps2⟩ ⟨rfl, rfl⟩
  | NORM_DECAY =>
    have hv : v.toNat ≤ 65535 := by simpa [Reg.rejects] using hlegal
    exact h.writeConfig (n := { s.norm with decay := v }) hctrl hv ⟨heps1, heps2⟩ ⟨rfl, rfl⟩
  | NORM_EPS =>
    have hv : ¬ (v.toNat = 0 ∨ v.toNat > 65536) := of_decide_eq_false hlegal
    have heps : 1 ≤ v.toNat ∧ v.toNat ≤ 65536 := by omega
    exact h.writeConfig (n := { s.norm with eps := v }) hctrl hdecay heps ⟨rfl, rfl⟩
  | TRK_DECAY_STEP | TRK_MIN_RANGE => exact h.writeTracker _
  | HIST_MIN_VAL | HIST_MAX_VAL | HIST_NBINS | HIST_SPREAD | HIST_DECAY => exact h.writeHistogram rfl
  | _ => exact ⟨h, id⟩

/-! ### The producer's operations -/

theorem State.Inv.fltStep (h : s.Inv) (pcm : Half) : SoundMove s (s.fltStep pcm) := ⟨h, id⟩

theorem filterPass_sound : ∀ (pcms : List Half) {s : State}, s.Inv → SoundMove s (filterPass pcms s)
  | [], _, h => ⟨h, id⟩
  | pcm :: rest, _, h => (h.fltStep pcm).trans (filterPass_sound rest (h.fltStep pcm).inv)

/-- The ends keep their signs: the decay stops at zero and the widening only moves outward (42_normalizer.md R178). -/
theorem Normalizer.newEnds_signs {n : Normalizer} (hmin : n.smin.toInt ≤ 0) (hmax : 0 ≤ n.smax.toInt)
    (hdecay : n.decay.toNat ≤ 65535) (heps : n.eps.toNat ≤ 65536) (es : List Word) :
    n.newMin es ≤ 0 ∧ 0 ≤ n.newMax es := by
  obtain ⟨⟨hmax0, -⟩, -, hmin0⟩ := Normalizer.decayed_range hmin hmax hdecay
  have hwidenMax : sat32 n.decayedMax ≤ n.widenedMax es := (foldl_max_spec es _).1
  have hwidenMin : n.widenedMin es ≤ sat32 n.decayedMin := (foldl_min_spec es _).1
  rw [sat32_eq] at hwidenMax hwidenMin
  unfold Normalizer.newMax Normalizer.newMin
  split_ifs <;> omega

theorem State.Inv.normUpdate (h : s.Inv) (es : List Word) : SoundMove s (s.normUpdate es) := by
  obtain ⟨hqueue, htrk, hedge, hhist, ⟨heps1, heps2, hdecay, hctrl⟩, ⟨-, hmin, hmax⟩, haud⟩ := h
  obtain ⟨hdecayEq, hepsEq⟩ := s.norm.update_config es
  obtain ⟨hmaxEq, hminEq⟩ := s.norm.update_toInt es
  obtain ⟨hsignMin, hsignMax⟩ := Normalizer.newEnds_signs hmin hmax hdecay heps2 es
  have hlt := Normalizer.newMin_lt_newMax (es := es) heps1
  refine ⟨⟨hqueue, htrk, hedge, hhist, ?_, ?_, haud⟩, id⟩
  · simp only [State.ConfigInv, State.normUpdate_norm, State.normUpdate_ctrl, hdecayEq, hepsEq]
    exact ⟨heps1, heps2, hdecay, hctrl⟩
  · simp only [State.NormInv, State.normUpdate_norm, hmaxEq, hminEq]
    exact ⟨.inl hlt, hsignMin, hsignMax⟩

theorem State.Inv.trkInit (h : s.Inv) (hlegal : s.trk.configLegal = true) : SoundMove s { s with
    trk := { s.trk with tmin := toReg (-1), tmax := toReg 1 }
    edgeCount := 0#32
    status := { s.status with below := false, edgeValid := false, trkReady := true } } := by
  obtain ⟨hqueue, -, -, hhist, hconfig, hnorm, haud⟩ := h
  obtain ⟨hstep, hrange⟩ := s.trk.configLegal_iff.1 hlegal
  refine ⟨⟨hqueue, fun _ => ⟨hstep, hrange, ?_, ?_⟩, ⟨nofun, fun _ => ⟨rfl, rfl⟩⟩, hhist, hconfig, hnorm, haud⟩, id⟩
  · rw [toReg_toInt (by decide) (by decide)]
  · rw [toReg_toInt (by decide) (by decide), toReg_toInt (by decide) (by decide)]
    decide

theorem State.Inv.trkUpdate (h : s.Inv) (hready : s.status.trkReady = true) {x : Int} (h0 : 0 ≤ x)
    (h1 : x ≤ 2147483647) : SoundMove s (s.trkUpdate x) := by
  obtain ⟨hqueue, htrk, hedge, hhist, hconfig, hnorm, haud⟩ := h
  have hsound := htrk hready
  obtain ⟨-, -, hcorrects⟩ := hsound.update_toInt h0 h1
  refine ⟨⟨hqueue, fun _ => hsound.update h0 h1, hedge, hhist, hconfig, hnorm, haud⟩, ?_⟩
  rw [State.trkUpdate_status, Status.recordCorrection_corr, hcorrects, Bool.or_false]
  exact id

/-- The in-state count never becomes 0 again (R71 item 3). -/
theorem count_ne_zero (c : Word) : toRegU (satu32 (c.toNat + 1)) ≠ 0#32 := by
  intro hzero
  have hcount := toRegU_satu32_toNat (c.toNat + 1)
  rw [hzero, BitVec.toNat_zero] at hcount
  omega

theorem State.Inv.edgeUpdate (h : s.Inv) (x : Int) : SoundMove s (s.edgeUpdate x) := by
  obtain ⟨hqueue, htrk, hedge, hhist, hconfig, hnorm, haud⟩ := h
  have hone : (1#32 : Word) ≠ 0#32 := by decide
  rcases s.edgeUpdate_cases x with ⟨-, hstate⟩ | ⟨hvalid, -, -, hstate⟩ | ⟨hvalid, -, -, hstate⟩ |
    ⟨hvalid, -, -, hstate⟩ <;> rw [hstate]
  · exact ⟨⟨hqueue, htrk, ⟨fun _ => hone, nofun⟩, hhist, hconfig, hnorm, haud⟩, id⟩
  · exact ⟨⟨hqueue, htrk, ⟨fun _ => hone, fun hnot => by simp [hvalid] at hnot⟩, hhist, hconfig, hnorm, haud⟩, id⟩
  · exact ⟨⟨hqueue, htrk, ⟨fun _ => hone, fun hnot => by simp [hvalid] at hnot⟩, hhist, hconfig, hnorm, haud⟩, id⟩
  · exact ⟨⟨hqueue, htrk, ⟨fun _ => count_ne_zero _, fun hnot => by simp [hvalid] at hnot⟩, hhist, hconfig, hnorm,
      haud⟩, id⟩

theorem State.Inv.queuePush (h : s.Inv) {ev : Word} (hev : ev ≠ 0#32) : SoundMove s (s.queuePush ev) := by
  obtain ⟨⟨hlength, hnonzero⟩, hrest⟩ := h
  have hcapacity := (s.queuePush_keeps ev).capacity hlength
  rcases s.queuePush_cases ev with ⟨-, hpush⟩ | ⟨-, hpush⟩ <;> rw [hpush] at hcapacity ⊢
  · refine ⟨⟨⟨hcapacity, fun e he => ?_⟩, hrest⟩, id⟩
    rcases List.mem_append.1 he with hold | hnew
    · exact hnonzero e hold
    · rwa [List.mem_singleton.1 hnew]
  · exact ⟨⟨⟨hcapacity, hnonzero⟩, hrest⟩, id⟩

theorem State.Inv.nstepCore (h : s.Inv) (hready : s.status.trkReady = true) {x : Int} (h0 : 0 ≤ x)
    (h1 : x ≤ 2147483647) : SoundMove s (s.nstepCore x) := by
  have htracked := h.trkUpdate hready h0 h1
  have hcompared := htracked.trans (htracked.inv.edgeUpdate x)
  rcases s.nstepCore_cases x with ⟨-, hcore⟩ | ⟨hevent, hcore⟩ <;> rw [hcore]
  · exact hcompared
  · exact hcompared.trans (hcompared.inv.queuePush hevent)

end

theorem State.nstepCore_trkReady (s : State) (x : Int) : (s.nstepCore x).status.trkReady = s.status.trkReady := by
  obtain ⟨below, valid, count, hstate⟩ := (s.trkUpdate x).edgeUpdate_frame x
  rcases s.nstepCore_cases x with ⟨-, hcore⟩ | ⟨-, hcore⟩
  · rw [hcore, hstate]
    rfl
  · rw [hcore, hstate, State.queuePush]
    split <;> rfl

theorem comparePass_sound : ∀ {ns : List Word} {s : State}, s.Inv → s.status.trkReady = true →
    (∀ n ∈ ns, n.toNat ≤ 1073741823) → SoundMove s (comparePass ns s)
  | [], _, h, _, _ => ⟨h, id⟩
  | n :: rest, s, h, hready, hle => by
    obtain ⟨hn, hrest⟩ := List.forall_mem_cons.1 hle
    have hmove := h.nstepCore hready (x := n.toNat) (by omega) (by omega)
    exact hmove.trans (comparePass_sound hmove.inv ((s.nstepCore_trkReady _).trans hready) hrest)

theorem filterPass_trkReady : ∀ (pcms : List Half) (s : State),
    (filterPass pcms s).status.trkReady = s.status.trkReady
  | [], _ => rfl
  | pcm :: rest, s => filterPass_trkReady rest (s.fltStep pcm)

theorem State.normalized_le {s : State} {pcms : List Half} : ∀ n ∈ s.normalized pcms, n.toNat ≤ 1073741823 := by
  intro n hn
  obtain ⟨e, -, rfl⟩ := List.mem_map.1 hn
  exact Normalizer.rescale_le _ _

theorem State.Inv.runBlock {s : State} (h : s.Inv) (hready : s.status.trkReady = true) (pcms : List Half) :
    SoundMove s (s.runBlock pcms) := by
  have hfiltered := filterPass_sound pcms h
  have hbefore : SoundMove s (s.beforeCompare pcms) := hfiltered.trans (hfiltered.inv.normUpdate _)
  have hreadyBefore : (s.beforeCompare pcms).status.trkReady = true := (filterPass_trkReady pcms s).trans hready
  exact hbefore.trans (comparePass_sound hbefore.inv hreadyBefore State.normalized_le)

/-- The debug copy keeps the canonical form of AUD. -/
theorem BlockLegal.debugCopy_wf {s : State} {count : Half} {base : Word} {m : Memory} (hblock : BlockLegal count base)
    (hwf : s.aud.wf = true) (hcopy : s.debugCopy base (s.normalized (blockSamples s count base)) = some m) :
    m.wf = true := by
  unfold State.debugCopy at hcopy
  split at hcopy
  · have hinside := hblock.inside
    have hlength : ((s.normalized (blockSamples s count base)).map debugHalf).length = count.toNat := by
      rw [List.length_map, State.normalized_length, blockSamples_length]
    obtain ⟨m', hm', hwf', -⟩ := writeFrames_spec ((s.normalized (blockSamples s count base)).map debugHalf) s.aud
      base.toNat hwf (by rw [hlength]; exact hinside)
    exact Option.some.inj (hm'.symm.trans hcopy) ▸ hwf'
  · exact Option.some.inj hcopy ▸ hwf

/-! ### The consumer's operations -/

section
variable {s : State}

/-- A histogram under HIST_READY is replaced by a sound one whose cells from HIST_NBINS on are the old ones. -/
theorem State.Inv.withHist (h : s.Inv) (hready : s.status.histReady = true) {g : Histogram}
    (hg : s.hist.Sound → g.Sound)
    (hdrop : s.hist.Sound → g.bins.drop g.nbins.toNat = s.hist.bins.drop s.hist.nbins.toNat) :
    SoundMove s { s with hist := g } := by
  obtain ⟨hqueue, htrk, hedge, ⟨-, hhist⟩, hconfig, hnorm, haud⟩ := h
  obtain ⟨hsound, hzero⟩ := hhist hready
  obtain ⟨hlength, -⟩ := hg hsound
  refine ⟨⟨hqueue, htrk, hedge, ⟨hlength, fun _ => ⟨hg hsound, ?_⟩⟩, hconfig, hnorm, haud⟩, id⟩
  rw [hdrop hsound]
  exact hzero

theorem State.Inv.histInit (h : s.Inv) (hlegal : s.hist.configLegal = true) : SoundMove s { s with
    hist := { s.hist.cleared with tCur := s.hist.cleared.threshold }
    status := { s.status with histReady := true, idleFlushed := true } } := by
  obtain ⟨hqueue, htrk, hedge, -, hconfig, hnorm, haud⟩ := h
  have hlength : s.hist.cleared.bins.length = 256 := by rw [Histogram.cleared_bins, List.length_replicate]
  refine ⟨⟨hqueue, htrk, hedge, ⟨hlength, fun _ => ⟨⟨hlength, Histogram.configLegal_iff.1 hlegal⟩, ?_⟩⟩, hconfig,
    hnorm, haud⟩, id⟩
  intro b hb
  have hmem := List.mem_of_mem_drop hb
  rw [Histogram.cleared_bins] at hmem
  exact List.eq_of_mem_replicate hmem

theorem State.Inv.takeEvent (h : s.Inv) {ev : Word} {rest : List Word} (hqueue : s.queue = ev :: rest) :
    SoundMove s (s.takeEvent rest) := by
  obtain ⟨⟨hlength, hnonzero⟩, hothers⟩ := h
  rw [hqueue] at hlength hnonzero
  rw [List.length_cons] at hlength
  exact ⟨⟨⟨by rw [State.takeEvent_queue]; omega, fun e he => hnonzero e (List.mem_cons_of_mem _ he)⟩, hothers⟩, id⟩

end

/-! ### Every command and every step -/

theorem Effect.sound {s u : State} {i : Instr} {c : StatusCode} (heffect : Effect s i c u) (h : s.Inv) :
    SoundMove s u := by
  cases heffect with
  | fails => exact h.recordFailure c
  | reads | noEvent => exact ⟨h, id⟩
  | wrreg _ _ hlegal => exact h.writeReg hlegal
  | sreset =>
    obtain ⟨-, -, -, -, -, -, haud⟩ := h
    exact ⟨State.afterReset_inv haud, nofun⟩
  | fltStep pcm => exact h.fltStep pcm
  | nrmStep e => exact h.normUpdate [e]
  | trkInit hlegal => exact h.trkInit hlegal
  | trkUpdate hready hlegal => exact h.trkUpdate hready (by omega) (by omega)
  | edgUpdate => exact h.edgeUpdate _
  | nstep hready hlegal => exact h.nstepCore hready (by omega) (by omega)
  | @procBlock count base m hready _ hblock hcopy =>
    have ⟨_, _, _, _, _, _, haud⟩ := h
    have hmove := State.Inv.runBlock h hready (blockSamples s count base)
    obtain ⟨hqueue, htrk, hedge, hhist, hconfig, hnorm, -⟩ := hmove.inv
    exact ⟨⟨hqueue, htrk, hedge, hhist, hconfig, hnorm, hblock.debugCopy_wf haud hcopy⟩, hmove.corr⟩
  | evtSubmit hev => exact h.queuePush hev
  | histInit hlegal => exact h.histInit hlegal
  | histAdd d hready => exact h.withHist hready (·.add _) (·.drop_add _)
  | histDecay _ hready => exact h.withHist hready (·.decayAll) (·.drop_decayAll)
  | tone hready hqueue d =>
    have htaken := h.takeEvent hqueue
    have hmove := htaken.inv.withHist (g := s.hist.learn d) hready (·.add d) (·.drop_add d)
    exact ⟨hmove.inv, htaken.corr ∘ hmove.corr⟩
  | gap hready hqueue d =>
    have htaken := h.takeEvent hqueue
    exact ⟨htaken.inv, htaken.corr⟩
  | flush => exact ⟨h, id⟩

theorem exec_sound {i : Instr} {s t : State} (hexec : exec i s = .next t) (h : s.Inv) : SoundMove s t := by
  obtain ⟨c, u, aux, result, rfl, heffect, -⟩ := effect_of_exec hexec
  have hmove := heffect.sound h
  exact ⟨hmove.inv.respond c i.opc aux result, hmove.corr⟩

theorem runMove_sound {m : HostMove} {s t : State} (hrun : runMove m s = .next t) (h : s.Inv) : SoundMove s t := by
  cases m with
  | command w =>
    cases hdecode : decode w with
    | none =>
      rw [runMove, runWord_of_decode_none hdecode] at hrun
      cases hrun
      have hmove := h.recordFailure .illegalCmd
      exact ⟨hmove.inv, hmove.corr⟩
    | some i =>
      rw [runMove, runWord_of_decode hdecode] at hrun
      exact exec_sound hrun h
  | audWrite half v =>
    cases hrun
    obtain ⟨hqueue, htrk, hedge, hhist, hconfig, hnorm, haud⟩ := h
    exact ⟨⟨hqueue, htrk, hedge, hhist, hconfig, hnorm, hostWrite_aud_wf haud half v⟩, id⟩
  | audRead half =>
    cases hrun
    exact ⟨h, id⟩
  | hardReset contents =>
    cases hrun
    exact ⟨State.afterReset_inv (Memory.wf_ofCells contents), nofun⟩

theorem step_sound {s t : State} (hstep : step s = .next t) (h : s.Inv) : SoundMove s t := by
  unfold step at hstep
  split at hstep
  · cases hstep
    exact ⟨h, id⟩
  · next m rest hinput =>
    have hmove := runMove_sound (s := { s with input := rest }) hstep h
    exact ⟨hmove.inv, hmove.corr⟩

/-- Settles O52: a step is a host move, and every host move keeps the invariants. -/
theorem stepKeepsTheInvariants : Obligations.StepKeepsTheInvariants :=
  fun _ _ h hstep => (step_sound hstep h).inv

/-- Settles O32: under the invariants no operation of the tracker has to restore its range. -/
theorem correctionNeverRecorded : Obligations.CorrectionNeverRecorded :=
  fun _ _ h hstep => (step_sound hstep h).corr

/-- Settles O53: `State.afterReset_inv`, whatever AUD holds. -/
theorem resetMeetsTheInvariants : Obligations.ResetMeetsTheInvariants :=
  fun _ hwf => State.afterReset_inv hwf

end Sys2Proof.Machine

namespace Sys2Proof.Machine

/-! ## The producer's operations do not see the consumer's state (10_state.md R70)

A `ConsumerChange` changes what belongs to the consumer: the histogram, its STATUS bits, ERR, the symbols, the
responses, and how many of the oldest events are taken. Every operation of the producer commutes with every such change;
only a push asks for room, as a queue that is full before the change has room after it. -/

/-- A change of the consumer's part of the state, field by field. -/
structure ConsumerChange where
  hist : Histogram → Histogram := id
  histReady : Bool → Bool := id
  idleFlushed : Bool → Bool := id
  err : Bool → Bool := id
  sym : List Symbol → List Symbol := id
  rsp : List CmdWord → List CmdWord := id
  taken : Nat := 0

/-- The changed state; what belongs to the producer alone is as before. -/
def ConsumerChange.on (k : ConsumerChange) (s : State) : State := { s with
  status := { s.status with
    histReady := k.histReady s.status.histReady
    idleFlushed := k.idleFlushed s.status.idleFlushed
    err := k.err s.status.err }
  hist := k.hist s.hist
  queue := s.queue.drop k.taken
  sym := k.sym s.sym
  rsp := k.rsp s.rsp }

/-- The change takes no event; or the events it takes are there in `s`, and nothing is dropped from `s` to `t`: QOVF
shows it, or QDROP does while it is not saturated. -/
def ConsumerChange.RoomFor (k : ConsumerChange) (s t : State) : Prop :=
  k.taken = 0 ∨ (k.taken ≤ s.queue.length ∧ s.queue.length ≤ 16
    ∧ (t.status.qovf = false ∨ s.qdrop.toNat < 4294967295 ∧ t.qdrop.toNat ≤ s.qdrop.toNat))

section
variable {k : ConsumerChange} {s : State}

/-- What is dropped on a part of the way is dropped on the whole way. -/
theorem ConsumerChange.RoomFor.split {t u : State} (h : k.RoomFor s u) (h1 : ProducerKeeps s t)
    (h2 : ProducerKeeps t u) : k.RoomFor s t ∧ k.RoomFor t u := by
  rcases h with htaken | ⟨htaken, hlength, hkept⟩
  · exact ⟨.inl htaken, .inl htaken⟩
  · have hqdrop1 := h1.qdrop
    have hqdrop2 := h2.qdrop
    have hgrows := h1.queue.length_le
    rcases hkept with hqovf | ⟨hunsaturated, hqdrop⟩
    · have hqovf1 : t.status.qovf = false := by
        rw [Bool.eq_false_iff] at hqovf ⊢
        exact mt h2.qovf hqovf
      exact ⟨.inr ⟨htaken, hlength, .inl hqovf1⟩, .inr ⟨by omega, h1.capacity hlength, .inl hqovf⟩⟩
    · exact ⟨.inr ⟨htaken, hlength, .inr ⟨hunsaturated, by omega⟩⟩,
        .inr ⟨by omega, h1.capacity hlength, .inr ⟨by omega, by omega⟩⟩⟩

theorem ConsumerChange.on_fltStep (pcm : Half) : (k.on s).fltStep pcm = k.on (s.fltStep pcm) := rfl

theorem ConsumerChange.on_normUpdate (es : List Word) : (k.on s).normUpdate es = k.on (s.normUpdate es) := rfl

theorem ConsumerChange.on_trkUpdate (x : Int) : (k.on s).trkUpdate x = k.on (s.trkUpdate x) := rfl

theorem ConsumerChange.on_edgeUpdate (x : Int) : (k.on s).edgeUpdate x = k.on (s.edgeUpdate x) := by
  have hvalid : (k.on s).status.edgeValid = s.status.edgeValid := rfl
  have hrises : (k.on s).edgeRises x = s.edgeRises x := rfl
  have hfalls : (k.on s).edgeFalls x = s.edgeFalls x := rfl
  simp only [State.edgeUpdate, hvalid, hrises, hfalls]
  split_ifs <;> rfl

theorem ConsumerChange.on_nstepEvent (x : Int) : (k.on s).nstepEvent x = s.nstepEvent x := rfl

/-- With room the push has it after the change too; a change that takes nothing leaves a full queue full. -/
theorem ConsumerChange.on_queuePush {ev : Word} (hroom : k.RoomFor s (s.queuePush ev)) :
    (k.on s).queuePush ev = k.on (s.queuePush ev) ∧ (k.on s).queueFull = s.queueFull := by
  rcases hroom with htaken | ⟨htaken, hlength, hkept⟩
  · have hqueue : (k.on s).queue = s.queue := by rw [ConsumerChange.on, htaken, List.drop_zero]
    have hfull : (k.on s).queueFull = s.queueFull := by rw [State.queueFull, State.queueFull, hqueue]
    refine ⟨?_, hfull⟩
    unfold State.queuePush
    rw [hfull]
    split
    · rfl
    · simp only [ConsumerChange.on, htaken, List.drop_zero]
  · have hlengthOn : (k.on s).queue.length = s.queue.length - k.taken := List.length_drop
    rcases s.queuePush_cases ev with ⟨hspace, hpush⟩ | ⟨hfull, hpush⟩
    · have hnotFull := s.queueFull_eq_false_iff.2 hspace
      have hnotFullOn := (k.on s).queueFull_eq_false_iff.2 (by omega)
      refine ⟨?_, hnotFullOn.trans hnotFull.symm⟩
      rw [State.queuePush, if_neg (by rw [hnotFullOn]; decide), hpush]
      simp only [ConsumerChange.on, List.drop_append_of_le_length htaken]
    · exfalso
      rw [hpush] at hkept
      simp only [toRegU_satu32_toNat] at hkept
      rcases hkept with hqovf | hqdrop
      · cases hqovf
      · omega

/-- The push of the fused step, which starts from the queue the step found. -/
theorem ConsumerChange.on_nstepPush {x : Int} (hevent : s.nstepEvent x ≠ 0#32) (hroom : k.RoomFor s (s.nstepCore x)) :
    (k.on ((s.trkUpdate x).edgeUpdate x)).queuePush (s.nstepEvent x) = k.on (s.nstepCore x)
      ∧ (k.on s).queueFull = s.queueFull := by
  have hcore : s.nstepCore x = ((s.trkUpdate x).edgeUpdate x).queuePush (s.nstepEvent x) := if_pos hevent
  have hcompared : ProducerKeeps s ((s.trkUpdate x).edgeUpdate x) :=
    (s.trkUpdate_keeps x).trans (State.edgeUpdate_keeps _ x)
  have hqueue : ((s.trkUpdate x).edgeUpdate x).queue = s.queue := State.edgeUpdate_trkUpdate_keeps.1
  rw [hcore] at hroom ⊢
  obtain ⟨hpush, hfull⟩ := ConsumerChange.on_queuePush (hroom.split hcompared (State.queuePush_keeps _ _)).2
  refine ⟨hpush, ?_⟩
  rw [State.queueFull, State.queueFull, ← hqueue]
  rw [State.queueFull, State.queueFull] at hfull
  rw [← hfull, ConsumerChange.on, ConsumerChange.on, hqueue]

theorem ConsumerChange.on_nstepCore {x : Int} (hroom : k.RoomFor s (s.nstepCore x)) :
    (k.on s).nstepCore x = k.on (s.nstepCore x) := by
  have hcompared : ((k.on s).trkUpdate x).edgeUpdate x = k.on ((s.trkUpdate x).edgeUpdate x) := by
    rw [ConsumerChange.on_trkUpdate, ConsumerChange.on_edgeUpdate]
  rw [State.nstepCore, ConsumerChange.on_nstepEvent, hcompared]
  by_cases hevent : s.nstepEvent x = 0#32
  · rw [if_neg (not_not.2 hevent), State.nstepCore, if_neg (not_not.2 hevent)]
  · rw [if_pos hevent, (ConsumerChange.on_nstepPush hevent hroom).1]

theorem ConsumerChange.on_nstepDrops {x : Int} (hroom : k.RoomFor s (s.nstepCore x)) :
    (k.on s).nstepDrops x = s.nstepDrops x := by
  rw [State.nstepDrops, ConsumerChange.on_nstepEvent, State.nstepDrops]
  by_cases hevent : s.nstepEvent x = 0#32
  · simp [hevent]
  · rw [(ConsumerChange.on_nstepPush hevent hroom).2]

end

section
variable {k : ConsumerChange}

theorem ConsumerChange.on_filterPass : ∀ (pcms : List Half) (s : State),
    filterPass pcms (k.on s) = k.on (filterPass pcms s)
  | [], _ => rfl
  | pcm :: rest, s => ConsumerChange.on_filterPass rest (s.fltStep pcm)

theorem ConsumerChange.on_envelopes : ∀ (pcms : List Half) (s : State), envelopes pcms (k.on s) = envelopes pcms s
  | [], _ => rfl
  | pcm :: rest, s => congrArg (s.envelope pcm :: ·) (ConsumerChange.on_envelopes rest (s.fltStep pcm))

theorem ConsumerChange.on_comparePass : ∀ {ns : List Word} {s : State}, k.RoomFor s (comparePass ns s) →
    comparePass ns (k.on s) = k.on (comparePass ns s) ∧ countEvents ns (k.on s) = countEvents ns s
  | [], _, _ => ⟨rfl, rfl⟩
  | n :: rest, s, hroom => by
    obtain ⟨hfirst, hrest⟩ := hroom.split (s.nstepCore_keeps n.toNat) (comparePass_keeps rest _)
    obtain ⟨hpass, hcount⟩ := ConsumerChange.on_comparePass hrest
    simp only [comparePass, countEvents]
    rw [ConsumerChange.on_nstepCore hfirst, hpass, hcount, ConsumerChange.on_nstepEvent]
    exact ⟨rfl, rfl⟩

theorem ConsumerChange.on_normalized (pcms : List Half) (s : State) :
    (k.on s).normalized pcms = s.normalized pcms := by
  unfold State.normalized
  rw [ConsumerChange.on_envelopes]
  rfl

theorem ConsumerChange.on_beforeCompare (pcms : List Half) (s : State) :
    (k.on s).beforeCompare pcms = k.on (s.beforeCompare pcms) := by
  unfold State.beforeCompare
  rw [ConsumerChange.on_envelopes, ConsumerChange.on_filterPass]
  rfl

theorem State.beforeCompare_keeps (s : State) (pcms : List Half) : ProducerKeeps s (s.beforeCompare pcms) :=
  (filterPass_keeps pcms s).trans (State.normUpdate_keeps _ _)

theorem ConsumerChange.on_runBlock {pcms : List Half} {s : State} (hroom : k.RoomFor s (s.runBlock pcms)) :
    (k.on s).runBlock pcms = k.on (s.runBlock pcms) ∧ (k.on s).blockEvents pcms = s.blockEvents pcms := by
  obtain ⟨-, hcompare⟩ := hroom.split (s.beforeCompare_keeps pcms) (comparePass_keeps _ _)
  unfold State.runBlock State.blockEvents
  rw [ConsumerChange.on_normalized, ConsumerChange.on_beforeCompare]
  exact ConsumerChange.on_comparePass hcompare

end

/-! ## PROC_BLOCK and the single-stage commands (45_block_and_queue.md R243)

The commands run one after another do the block's two passes, and in addition transfer their responses. The passes do
not read the responses, so a change of the responses alone stands for them. -/

/-- The change of the responses to a given list. -/
def answered (rs : List CmdWord) : ConsumerChange := { rsp := fun _ => rs }

theorem answered_roomFor (rs : List CmdWord) (s t : State) : (answered rs).RoomFor s t := .inl rfl

@[simp] theorem answered_on_rsp (rs : List CmdWord) (s : State) : ((answered rs).on s).rsp = rs := rfl

@[simp] theorem answered_on_on (rs rs' : List CmdWord) (s : State) :
    (answered rs).on ((answered rs').on s) = (answered rs).on s := rfl

theorem respond_eq_answered (s : State) (c : StatusCode) (opc : Byte) (aux : Half) (r : Word) :
    s.respond c opc aux r = (answered (s.rsp ++ [responseWord c opc aux r])).on s := rfl

/-- FLT_STEP on every sample is the first pass, with the envelopes as results. -/
theorem execAll_fltStep : ∀ (pcms : List Half) (s : State), execAll (pcms.map .fltStep) s = some
    ((answered (s.rsp ++ (envelopes pcms s).map (responseWord .ok 0x10#8 0#16))).on (filterPass pcms s))
  | [], s => by
    simp only [envelopes, List.map_nil, List.append_nil]
    rfl
  | pcm :: rest, s => by
    have hexec : exec (.fltStep pcm) s = .next ((s.fltStep pcm).respond .ok 0x10#8 0#16 (s.envelope pcm)) := rfl
    rw [List.map_cons, execAll_cons hexec, respond_eq_answered, execAll_fltStep rest, ConsumerChange.on_envelopes,
      ConsumerChange.on_filterPass, answered_on_on, answered_on_rsp, State.fltStep_rsp, List.append_assoc,
      List.singleton_append]
    rfl

/-- The events of the second pass, the zero ones included. -/
def blockEventWords : List Word → State → List Word
  | [], _ => []
  | n :: rest, s => s.nstepEvent n.toNat :: blockEventWords rest (s.nstepCore n.toNat)

theorem countEvents_eq : ∀ (ns : List Word) (s : State),
    countEvents ns s = ((blockEventWords ns s).filter fun ev => decide (ev ≠ 0#32)).length
  | [], _ => rfl
  | n :: rest, s => by
    rw [countEvents, blockEventWords, List.filter_cons, countEvents_eq rest]
    by_cases hevent : s.nstepEvent n.toNat = 0#32
    · simp [hevent]
    · simp [hevent, Nat.add_comm]

theorem answered_blockEventWords (rs : List CmdWord) : ∀ (ns : List Word) (s : State),
    blockEventWords ns ((answered rs).on s) = blockEventWords ns s
  | [], _ => rfl
  | n :: rest, s => by
    rw [blockEventWords, ConsumerChange.on_nstepCore (answered_roomFor rs _ _), answered_blockEventWords rs rest]
    rfl

/-- NSTEP's next state and its result, the other fields of the response left aside. -/
theorem exec_nstep_answered {s : State} {sample : Word} (hready : s.status.trkReady = true)
    (hsample : sample.toNat ≤ 0x7FFFFFFF) : ∃ r, rspResult r = s.nstepEvent sample.toNat
      ∧ exec (.nstep sample) s = .next ((answered (s.rsp ++ [r])).on (s.nstepCore sample.toNat)) := by
  have hexec := exec_nstep_of_legalSample hready ((sampleLegal_iff sample).2 hsample)
  rw [respond_eq_answered, (s.nstepCore_keeps _).rsp] at hexec
  exact ⟨_, rspResult_responseWord _ _ _ _, hexec⟩

/-- NSTEP on every normalized sample is the second pass, with the events as results. -/
theorem execAll_nstep : ∀ {ns : List Word} {s : State}, s.status.trkReady = true →
    (∀ n ∈ ns, n.toNat ≤ 1073741823) → ∃ rs, execAll (ns.map .nstep) s = some
      ((answered (s.rsp ++ rs)).on (comparePass ns s)) ∧ rs.map rspResult = blockEventWords ns s
  | [], s, _, _ => ⟨[], by rw [List.append_nil]; rfl, rfl⟩
  | n :: rest, s, hready, hle => by
    obtain ⟨hn, hrest⟩ := List.forall_mem_cons.1 hle
    obtain ⟨r, hresult, hexec⟩ := exec_nstep_answered hready (sample := n) (by omega)
    obtain ⟨rs, hrun, hresults⟩ := execAll_nstep (ns := rest) (s := (answered (s.rsp ++ [r])).on (s.nstepCore n.toNat))
      ((s.nstepCore_trkReady _).trans hready) hrest
    rw [(ConsumerChange.on_comparePass (answered_roomFor _ _ _)).1, answered_on_on, answered_on_rsp,
      List.append_assoc, List.singleton_append] at hrun
    refine ⟨_, (execAll_cons hexec).trans hrun, ?_⟩
    rw [List.map_cons, hresults, answered_blockEventWords, hresult, blockEventWords]

theorem filterPass_norm : ∀ (pcms : List Half) (s : State), (filterPass pcms s).norm = s.norm
  | [], _ => rfl
  | pcm :: rest, s => filterPass_norm rest (s.fltStep pcm)

theorem resultsSince_answered (l rs : List CmdWord) (s t : State) :
    resultsSince ((answered l).on s) ((answered (l ++ rs)).on t) = rs.map rspResult :=
  resultsSince_of_append rfl

/-- FLT_STEP on every sample answers the envelopes. -/
theorem resultsSince_fltStep (s t : State) (pcms : List Half) : resultsSince s
    ((answered (s.rsp ++ (envelopes pcms s).map (responseWord .ok 0x10#8 0#16))).on t) = envelopes pcms s := by
  rw [resultsSince_of_append (answered_on_rsp _ _), List.map_map]
  exact (List.map_congr_left fun e _ => rspResult_responseWord _ _ _ e).trans (List.map_id _)

/-- Settles O38: the commands do the block's two passes with their own responses, and the block's one response counts
the events they answer. -/
theorem procBlockIsTheSingleStageCommands : Obligations.ProcBlockIsTheSingleStageCommands := by
  intro count base s hready hcount hmax haligned hinside
  have hblock : BlockLegal count base := ⟨hmax, haligned, hinside⟩
  obtain ⟨m, hcopy⟩ := hblock.exists_debugCopy (s := s)
  have hexec := hblock.exec_eq hready hcount hcopy
  generalize blockSamples s count base = pcms at hexec ⊢
  have hreadyBefore : (s.beforeCompare pcms).status.trkReady = true := (filterPass_trkReady pcms s).trans hready
  have hb (rs : List CmdWord) : ((answered rs).on (filterPass pcms s)).normUpdate (envelopes pcms s)
      = (answered rs).on (s.beforeCompare pcms) := rfl
  have hns (rs : List CmdWord) : (envelopes pcms s).map ((answered rs).on (s.beforeCompare pcms)).norm.rescale
      = s.normalized pcms := by
    rw [State.normalized, ← filterPass_norm pcms s]
    rfl
  obtain ⟨rs, hrun, hevents⟩ := execAll_nstep (ns := s.normalized pcms)
    (s := (answered (s.rsp ++ (envelopes pcms s).map (responseWord .ok 0x10#8 0#16))).on (s.beforeCompare pcms))
    hreadyBefore State.normalized_le
  rw [(ConsumerChange.on_comparePass (answered_roomFor _ _ _)).1, answered_on_on, answered_on_rsp] at hrun
  rw [answered_blockEventWords] at hevents
  refine ⟨_, (answered (s.rsp ++ (envelopes pcms s).map (responseWord .ok 0x10#8 0#16) ++ rs)).on (s.runBlock pcms), m,
    execAll_fltStep pcms s, ?_⟩
  simp only [resultsSince_fltStep, hb, hns]
  refine ⟨hrun, ?_⟩
  rw [hexec, resultsSince_answered, hevents, ← countEvents_eq, respond_eq_answered,
    show ({ s.runBlock pcms with aud := m } : State).rsp = s.rsp from (s.runBlock_keeps pcms).rsp]
  rfl

/-- Both bytes of the debug copy of a normalized sample (20_memory.md R92, R82). -/
theorem debugHalf_bytes (n : Word) : (debugHalf n).extractLsb' 0 8 = BitVec.ofNat 8 (n.toNat / 2 ^ 15)
    ∧ (debugHalf n).extractLsb' 8 8 = BitVec.ofNat 8 (n.toNat / 2 ^ 23) := by
  constructor <;> apply BitVec.eq_of_toNat_eq <;>
    simp only [debugHalf, BitVec.extractLsb'_toNat, BitVec.toNat_ofNat, Nat.shiftRight_eq_div_pow] <;> omega

/-- Settles O39: without DBGOUT the copy is AUD itself, with it `writeFrames_spec` gives every byte. -/
theorem procBlockDebugCopy : Obligations.ProcBlockDebugCopy := by
  intro count base s hready hcount hmax haligned hinside hwf
  have hblock : BlockLegal count base := ⟨hmax, haligned, hinside⟩
  obtain ⟨m, hcopy⟩ := hblock.exists_debugCopy (s := s)
  have hexec := hblock.exec_eq hready hcount hcopy
  have hmwf := hblock.debugCopy_wf hwf hcopy
  refine ⟨_, _, hexec, hmwf, execAll_fltStep _ s, ?_⟩
  rw [resultsSince_fltStep]
  have hlength : ((s.normalized (blockSamples s count base)).map debugHalf).length = count.toNat := by
    rw [List.length_map, State.normalized_length, blockSamples_length]
  cases hdbg : s.dbgout with
  | false =>
    have hm : m = s.aud := by simpa [State.debugCopy, hdbg] using hcopy.symm
    exact ⟨fun _ => hm, fun _ _ => congrArg (Memory.get · _) hm,
      fun htrue => absurd (hdbg.symm.trans htrue) (by decide)⟩
  | true =>
    obtain ⟨m', hwrite, -, hout, hin⟩ := writeFrames_spec _ s.aud base.toNat hwf (hinside.trans' (by rw [hlength]))
    have hm : m = m' := by
      rw [State.debugCopy, if_pos hdbg, hwrite, Option.some.injEq] at hcopy
      exact hcopy.symm
    subst hm
    refine ⟨fun hfalse => absurd (hdbg.symm.trans hfalse) (by decide), ?_, fun _ i k hi hk => ?_⟩
    · rw [hlength] at hout
      exact hout
    · intro n
      have hi' : i < (envelopes (blockSamples s count base) s).length := by
        rwa [envelopes_length, blockSamples_length]
      have hn : ((s.normalized (blockSamples s count base)).map debugHalf)[i]'(hi.trans_eq hlength.symm)
          = debugHalf n := by
        simp only [State.normalized, List.getElem_map, n, List.getD_eq_getElem _ _ hi']
      obtain ⟨hlow, hhigh⟩ := debugHalf_bytes n
      refine (hin i (hi.trans_eq hlength.symm) k hk).trans ?_
      rw [hn, hlow, hhigh]
      split <;> rfl

end Sys2Proof.Machine

namespace Sys2Proof.Machine

/-! ## PROC_BLOCK's checks (45_block_and_queue.md R243, steps 1 and 2) -/

/-- Settles O40: the checks are taken in order, so each clause knows what the earlier ones let through. -/
theorem procBlockChecksInOrder : Obligations.ProcBlockChecksInOrder := by
  intro count base s hready failed
  have hchecked : ¬ (!s.status.trkReady) = true := by simp [hready]
  refine ⟨fun hcount => ?_, fun hcount haddr => ?_, fun hcount haligned hinside => ?_⟩
  · exact (if_neg hchecked).trans (if_pos hcount)
  · have hbad : blockAddrBad count base = true := (blockAddrBad_iff count base).2 haddr
    exact (if_neg hchecked).trans ((if_neg (not_lt.2 hcount)).trans (if_pos hbad))
  · have hblock : BlockLegal count base := ⟨by omega, haligned, by omega⟩
    have hgood : ¬ blockAddrBad count base = true := by simp [hblock.addrBad_eq_false]
    have hempty : count = 0#16 := BitVec.eq_of_toNat_eq hcount
    exact (if_neg hchecked).trans ((if_neg (not_lt.2 hblock.count_le)).trans ((if_neg hgood).trans (if_pos hempty)))

/-! ## NOP and the two resets (40_control_commands.md R130, R133; 70_reset_and_hazards.md R342) -/

/-- Settles O13: the response of NOP is the all-zero word. -/
theorem nopOnlyAnswers : Obligations.NopOnlyAnswers := by
  intro s
  have hword : responseWord .ok 0x00#8 0#16 0#32 = 0x0000000000000000#64 := by decide
  rw [← hword]
  rfl

/-- Settles O12: SRESET keeps AUD, a hardware reset finds the contents of its move. -/
theorem softAndHardReset : Obligations.SoftAndHardReset := by
  intro s cells rest
  have hword : responseWord .ok 0x03#8 0#16 0#32 = 0x0003000000000000#64 := by decide
  refine ⟨?_, fun hinput => ⟨Memory.ofCells cells, ?_⟩⟩
  · rw [← hword]
    rfl
  · simp only [step, hinput, runMove, hardReset]

/-! ## The host's accesses to AUD (20_memory.md R82, R84, R89) -/

/-- A host write on the bytes: its halfword in its two, every other as before. -/
theorem get_hostWrite {s : State} (hwf : s.aud.wf = true) (half : BitVec 11) (v : Half) (a : Nat) :
    Memory.get (hostWrite half v s).aud a = if a = 2 * half.toNat then v.extractLsb' 0 8
      else if a = 2 * half.toNat + 1 then v.extractLsb' 8 8 else Memory.get s.aud a := by
  have hinside : 2 * half.toNat + 1 < Config.audBytes := by
    have hhalf := half.isLt
    simp only [Config.audBytes]
    omega
  exact Memory.writeHalf_get hwf (if_pos hinside) a

/-- Settles O5: the idle step and the two moves, the write's bytes by `get_hostWrite`. -/
theorem hostMovesAndIdle : Obligations.HostMovesAndIdle := by
  intro s rest half v
  refine ⟨fun hinput => ?_, fun hinput hwf => ?_, fun hinput => ?_⟩
  · simp only [step, hinput]
  · refine ⟨(hostWrite half v s).aud, ?_, get_hostWrite hwf half v⟩
    simp only [step, hinput, runMove, hostWrite]
  · simp only [step, hinput, runMove, hostRead]

/-! ## The register map (10_state.md R23) -/

/-- The rows of R23: the index of each mapped register. -/
def registerMap : List (Nat × Reg) :=
  [(0x00, .ID), (0x01, .STATUS), (0x02, .CTRL), (0x03, .QCOUNT), (0x04, .QDROP),
   (0x10, .BPF_B0), (0x11, .BPF_B1), (0x12, .BPF_B2), (0x13, .BPF_A1), (0x14, .BPF_A2),
   (0x15, .BPF_X1), (0x16, .BPF_X2), (0x17, .BPF_Y1), (0x18, .BPF_Y2),
   (0x20, .LPF_B0), (0x21, .LPF_B1), (0x22, .LPF_B2), (0x23, .LPF_A1), (0x24, .LPF_A2),
   (0x25, .LPF_X1), (0x26, .LPF_X2), (0x27, .LPF_Y1), (0x28, .LPF_Y2),
   (0x30, .NORM_DECAY), (0x31, .NORM_EPS), (0x32, .SMAX), (0x33, .SMIN),
   (0x40, .TRK_DECAY_STEP), (0x41, .TRK_MIN_RANGE), (0x42, .TRK_MIN), (0x43, .TRK_MAX), (0x44, .EDGE_COUNT),
   (0x50, .HIST_MIN_VAL), (0x51, .HIST_MAX_VAL), (0x52, .HIST_NBINS), (0x53, .HIST_SPREAD),
   (0x54, .HIST_DECAY), (0x55, .T_CUR)]

theorem regAt_eq_some_iff {idx : Byte} {r : Reg} : regAt idx = some r ↔ (idx.toNat, r) ∈ registerMap := by
  unfold regAt
  split
  case h_39 =>
    simp only [registerMap, List.mem_cons, Prod.mk.injEq, List.not_mem_nil]
    simp_all
  all_goals
    next hidx => simp [registerMap, hidx, eq_comm]

/-- RDREG in terms of the register at the index (40_control_commands.md R131). -/
theorem exec_rdreg_of_mapped {idx : Byte} {r : Reg} (hmapped : regAt idx = some r) (s : State) :
    exec (.rdreg idx) s = .next (s.respond .ok 0x01#8 0#16 (s.readReg r)) := by
  simp only [exec, execRdreg, hmapped]

theorem exec_rdreg_of_unmapped {idx : Byte} (hunmapped : regAt idx = none) (s : State) :
    exec (.rdreg idx) s = .next (s.raise .badReg 0x01#8) := by
  simp only [exec, execRdreg, hunmapped]

/-- Settles O14: the table is the register map with each register's value, so its indices are the mapped ones. -/
theorem rdregReadsEveryRegister : Obligations.RdregReadsEveryRegister := by
  intro s idx table
  have htable : table = registerMap.map (fun row => (row.1, s.readReg row.2)) := rfl
  have hmem (v : Word) : (idx.toNat, v) ∈ table ↔ ∃ r, regAt idx = some r ∧ s.readReg r = v := by
    simp only [htable, List.mem_map, Prod.exists, Prod.mk.injEq, regAt_eq_some_iff]
    constructor
    · rintro ⟨_, r, hrow, rfl, hvalue⟩
      exact ⟨r, hrow, hvalue⟩
    · rintro ⟨r, hrow, hvalue⟩
      exact ⟨_, r, hrow, rfl, hvalue⟩
  constructor
  · intro v hv
    obtain ⟨r, hmapped, rfl⟩ := (hmem v).1 hv
    exact exec_rdreg_of_mapped hmapped s
  · intro hnot
    have hunmapped : regAt idx = none := by
      cases hreg : regAt idx with
      | none => rfl
      | some r => exact absurd ((hmem _).2 ⟨r, hreg, rfl⟩) (hnot _)
    exact exec_rdreg_of_unmapped hunmapped s

/-! ## WRREG (40_control_commands.md R132) -/

/-- CTRL takes a value whose reserved bits 31 to 2 are 0. -/
theorem Reg.ctrl_accepts_iff (v : Word) : Reg.rejects .CTRL v = false ↔ v.toNat < 4 := by
  have hbits : v.extractLsb' 2 30 = 0#30 ↔ v.toNat < 4 := by
    rw [← BitVec.toNat_inj, BitVec.extractLsb'_toNat, BitVec.toNat_zero, Nat.shiftRight_eq_div_pow]
    have hv := v.isLt
    omega
  rw [Reg.rejects, decide_eq_false_iff_not, not_not, hbits]

/-- Settles O16: the ten coefficients are writable and reject no value; CTRL, NORM_DECAY and NORM_EPS accept theirs. -/
theorem wrregPlainRegisters : Obligations.WrregPlainRegisters := by
  intro s v ok
  refine ⟨exec_wrreg_of_accepted (r := .BPF_B0) rfl rfl rfl s,
    exec_wrreg_of_accepted (r := .BPF_B1) rfl rfl rfl s,
    exec_wrreg_of_accepted (r := .BPF_B2) rfl rfl rfl s,
    exec_wrreg_of_accepted (r := .BPF_A1) rfl rfl rfl s,
    exec_wrreg_of_accepted (r := .BPF_A2) rfl rfl rfl s,
    exec_wrreg_of_accepted (r := .LPF_B0) rfl rfl rfl s,
    exec_wrreg_of_accepted (r := .LPF_B1) rfl rfl rfl s,
    exec_wrreg_of_accepted (r := .LPF_B2) rfl rfl rfl s,
    exec_wrreg_of_accepted (r := .LPF_A1) rfl rfl rfl s,
    exec_wrreg_of_accepted (r := .LPF_A2) rfl rfl rfl s,
    fun hctrl => ?_, fun hdecay => ?_, fun hmin hmax => ?_⟩
  · exact exec_wrreg_of_accepted (r := .CTRL) rfl rfl ((Reg.ctrl_accepts_iff v).2 hctrl) s
  · exact exec_wrreg_of_accepted (r := .NORM_DECAY) rfl rfl (decide_eq_false (not_lt.2 hdecay)) s
  · exact exec_wrreg_of_accepted (r := .NORM_EPS) rfl rfl (decide_eq_false (by omega)) s

/-- Settles O17: the seven guarded registers reject no value, and their writes drop the READY bit. -/
theorem wrregGuardedDropsReady : Obligations.WrregGuardedDropsReady := by
  intro s v ok trkDown histDown
  exact ⟨exec_wrreg_of_accepted (r := .TRK_DECAY_STEP) rfl rfl rfl s,
    exec_wrreg_of_accepted (r := .TRK_MIN_RANGE) rfl rfl rfl s,
    exec_wrreg_of_accepted (r := .HIST_MIN_VAL) rfl rfl rfl s,
    exec_wrreg_of_accepted (r := .HIST_MAX_VAL) rfl rfl rfl s,
    exec_wrreg_of_accepted (r := .HIST_NBINS) rfl rfl rfl s,
    exec_wrreg_of_accepted (r := .HIST_SPREAD) rfl rfl rfl s,
    exec_wrreg_of_accepted (r := .HIST_DECAY) rfl rfl rfl s⟩

section
variable {idx : Byte} {v : Word} {s : State}

theorem exec_wrreg_of_badReg (hbad : ∀ r, regAt idx = some r → r.readOnly = true) :
    exec (.wrreg idx v) s = .next (s.raise .badReg 0x02#8) := by
  cases hreg : regAt idx with
  | none => simp only [exec, execWrreg, hreg]
  | some r => simp only [exec, execWrreg, hreg, hbad r hreg, if_true]

theorem exec_wrreg_of_illegalValue {r : Reg} (hmapped : regAt idx = some r) (hwritable : r.readOnly = false)
    (hillegal : r.rejects v = true) : exec (.wrreg idx v) s = .next (s.raise .invalidArg 0x02#8) := by
  simp [exec, execWrreg, hmapped, hwritable, hillegal]

end

/-- The indices of the writable registers are those of R132. -/
theorem writable_index : ∀ row ∈ registerMap, row.2.readOnly = false →
    row.1 ∈ [0x01, 0x02, 0x10, 0x11, 0x12, 0x13, 0x14, 0x20, 0x21, 0x22, 0x23, 0x24, 0x30, 0x31, 0x40, 0x41, 0x50,
      0x51, 0x52, 0x53, 0x54] := by decide

/-- Settles O18: a register at another index is read-only, and the three checked registers reject the illegal values. -/
theorem wrregRejects : Obligations.WrregRejects := by
  intro s idx v failed
  constructor
  · intro hindex
    refine exec_wrreg_of_badReg fun r hmapped => ?_
    rw [← Bool.not_eq_false]
    exact fun hwritable => hindex (writable_index _ (regAt_eq_some_iff.1 hmapped) hwritable)
  · have mapped {n : Nat} {r : Reg} (hidx : idx.toNat = n) (hrow : (n, r) ∈ registerMap) : regAt idx = some r :=
      regAt_eq_some_iff.2 (hidx ▸ hrow)
    rintro (⟨hidx, hvalue⟩ | ⟨hidx, hvalue⟩ | ⟨hidx, hvalue⟩)
    · refine exec_wrreg_of_illegalValue (mapped (r := .CTRL) hidx (by decide)) rfl ?_
      rw [← Bool.not_eq_false]
      exact fun hlegal => absurd ((Reg.ctrl_accepts_iff v).1 hlegal) (not_lt.2 hvalue)
    · exact exec_wrreg_of_illegalValue (mapped (r := .NORM_DECAY) hidx (by decide)) rfl (decide_eq_true hvalue)
    · exact exec_wrreg_of_illegalValue (mapped (r := .NORM_EPS) hidx (by decide)) rfl (decide_eq_true hvalue)

/-! ## RDBIN (40_control_commands.md R134) -/

/-- Settles O19: inside the list a bin is the cell itself. -/
theorem rdbinReadsTheBin : Obligations.RdbinReadsTheBin := by
  intro s idx h
  have hbin : s.hist.bin idx.toNat = s.hist.bins[idx.toNat] := List.getD_eq_getElem _ _ h
  rw [← hbin]
  rfl

end Sys2Proof.Machine

namespace Sys2Proof.Machine

/-! ## The READY check passed: one equation per consumer command (46_histogram.md section 3, 47_classifier.md) -/

section
variable {s : State}

theorem exec_histAdd_of_ready (hready : s.status.histReady = true) (d : Word) : exec (.histAdd d) s = .next
    ({ s with hist := s.hist.add d.toNat }.respond .ok 0x41#8 (BitVec.ofNat 16 ((s.hist.index d.toNat).getD 0))
      (if (s.hist.index d.toNat).isSome then 1#32 else 0#32)) :=
  if_neg (by simp [hready])

theorem exec_histDecay_of_ready (hready : s.status.histReady = true) : exec .histDecay s = .next
    ({ s with hist := s.hist.decayAll }.respond .ok 0x42#8 0#16 0#32) :=
  if_neg (by simp [hready])

theorem exec_histThr_of_ready (hready : s.status.histReady = true) : exec .histThr s = .next
    (s.respond .ok 0x44#8 0#16 s.hist.threshold) :=
  if_neg (by simp [hready])

theorem exec_decStep_of_nil (hready : s.status.histReady = true) (hqueue : s.queue = []) :
    exec .decStep s = .next (s.respond .empty 0x50#8 0#16 0#32) := by
  simp [exec, execDecStep, hready, hqueue]

theorem exec_decStep_of_cons (hready : s.status.histReady = true) {ev : Word} {rest : List Word}
    (hqueue : s.queue = ev :: rest) : exec .decStep s = .next
      (if ev.toInt < 0 then (s.takeEvent rest).classifyTone ev.toInt.natAbs ev
      else (s.takeEvent rest).classifyGap ev.toNat ev) := by
  by_cases hsign : ev.toInt < 0 <;> simp [exec, execDecStep, hready, hqueue, hsign]

theorem exec_decTimeout_of_ready (hready : s.status.histReady = true) : exec .decTimeout s =
    if s.queue ≠ [] then .next (s.raise .notIdle 0x51#8)
    else if !s.status.idleFlushed then
      .next ({ s with
        status := { s.status with idleFlushed := true }, sym := s.sym ++ [Symbol.letter, Symbol.flush] }.respond
        .ok 0x51#8 0x0503#16 0#32)
    else .next ({ s with hist := s.hist.decayAll }.respond .ok 0x51#8 0#16 0#32) := by
  have hpair : symbolPair Symbol.letter.code Symbol.flush.code = 0x0503#16 := by decide
  refine (if_neg (by simp [hready])).trans ?_
  simp only [State.emit, List.append_assoc, hpair, List.singleton_append]

end

/-! ## Bins as numbers (46_histogram.md R262, R266) -/

/-- A cell after a decay step, as a number. -/
def Histogram.decayedBin (h : Histogram) (j : Nat) : Nat :=
  if j < h.nbins.toNat then (h.bin j).toNat * h.decay.toNat / 65536 else (h.bin j).toNat

section
variable {h : Histogram}

theorem Histogram.Sound.decay_le (hs : h.Sound) : h.decay.toNat ≤ 65536 := by
  obtain ⟨-, -, -, -, -, hdecay, -⟩ := hs
  exact hdecay

theorem Histogram.Sound.bin_decayAll_toNat (hs : h.Sound) (j : Nat) :
    (h.decayAll.bin j).toNat = h.decayedBin j := by
  rw [Histogram.bin_decayAll, Histogram.decayedBin]
  split
  · exact decayBin_toNat hs.decay_le
  · rfl

theorem Histogram.Sound.bin_add_of_index (hs : h.Sound) {d i : Nat} (hi : h.index d = some i) (j : Nat) :
    ((h.add d).bin j).toNat = if j = i then min 4294967295 (h.decayedBin j + 65536) else h.decayedBin j := by
  have hadd : h.add d = h.decayAll.count i := by rw [Histogram.add, hi]
  have hcell : i < h.decayAll.bins.length := by
    have hlt := hs.index_lt hi
    obtain ⟨hlength, -, hbins, -⟩ := hs
    rw [Histogram.decayAll_length]
    omega
  rw [hadd, Histogram.bin_count _ hcell]
  split
  case isTrue hj => rw [toRegU_satu32_toNat, hs.bin_decayAll_toNat, hj]
  case isFalse => exact hs.bin_decayAll_toNat j

theorem Histogram.Sound.bin_add_of_none (hs : h.Sound) {d : Nat} (hi : h.index d = none) (j : Nat) :
    ((h.add d).bin j).toNat = h.decayedBin j := by
  rw [Histogram.add, hi]
  exact hs.bin_decayAll_toNat j

/-- HIST_ADD writes the bins only. -/
theorem Histogram.add_eq (d : Nat) : h.add d = { h with bins := (h.add d).bins } := by
  rcases h.add_cases d with ⟨-, hadd⟩ | ⟨i, -, hadd⟩ <;> rw [hadd] <;> rfl

/-- At a factor of 1.0 a decay step changes nothing (R262). -/
theorem Histogram.bins_decayAll_of_one (hone : h.decay.toNat = 65536) : h.decayAll.bins = h.bins := by
  have hkeep : ∀ b ∈ h.bins.take h.nbins.toNat, decayBin h.decay b = b := by
    intro b _
    apply BitVec.eq_of_toNat_eq
    rw [decayBin_toNat hone.le, hone, Nat.mul_div_cancel _ (by decide)]
  rw [Histogram.decayAll_bins, List.map_congr_left hkeep, List.map_id', List.take_append_drop]

/-- Below a factor of 1.0 every non-zero used bin strictly decreases (R262). -/
theorem Histogram.decayedBin_lt (hbelow : h.decay.toNat ≤ 65535) {j : Nat} (hj : j < h.nbins.toNat)
    (hne : h.bin j ≠ 0#32) : h.decayedBin j < (h.bin j).toNat := by
  have hpos : 0 < (h.bin j).toNat := Nat.pos_of_ne_zero fun hzero => hne (BitVec.eq_of_toNat_eq hzero)
  rw [Histogram.decayedBin, if_pos hj, Nat.div_lt_iff_lt_mul (by decide)]
  exact Nat.mul_lt_mul_of_pos_left (by omega) hpos

end

/-- Settles O42: the new bins are those of `Histogram.add`, cell by cell. -/
theorem histAddResult : Obligations.HistAddResult := by
  intro d s hready hsound lo hi nb inRange i decayed
  have hlength : (s.hist.add d.toNat).bins.length = 256 := (hsound.add d.toNat).1
  have hexec := exec_histAdd_of_ready hready d
  rw [Histogram.add_eq] at hexec
  refine ⟨(s.hist.add d.toNat).bins, hlength, fun hin => ?_, fun hout => ?_, fun hin => ?_, fun hout => ?_⟩
  all_goals
    rcases s.hist.index_cases d.toNat with ⟨houtside, hindex⟩ | ⟨hmin, hmax, hindex⟩
  · exact absurd hin (by omega)
  · exact hsound.bin_add_of_index hindex
  · exact hsound.bin_add_of_none hindex
  · exact absurd ⟨hmin, hmax⟩ hout
  · exact absurd hin (by omega)
  · rw [hexec, hindex]
    rfl
  · rw [hexec, hindex]
    rfl
  · exact absurd ⟨hmin, hmax⟩ hout

/-- Settles O43: the new bins are those of `Histogram.decayAll`. -/
theorem histDecayResult : Obligations.HistDecayResult := by
  intro s hready hsound nb alpha
  have hbin (j : Nat) : (s.hist.decayAll.bins.getD j 0#32).toNat = s.hist.decayedBin j := hsound.bin_decayAll_toNat j
  refine ⟨s.hist.decayAll.bins, hsound.decayAll.1, hbin, fun hbelow j hj hne => ?_, Histogram.bins_decayAll_of_one,
    exec_histDecay_of_ready hready⟩
  rw [hbin]
  exact Histogram.decayedBin_lt hbelow hj hne

/-! ## Decay reaches zero (46_histogram.md section 4)

Below a factor of 1.0 each step takes at least 1 off every non-zero used bin, so 2^32 - 1 steps are enough. -/

theorem Histogram.Sound.bin_iterate_decayAll {h : Histogram} (hs : h.Sound) (hbelow : h.decay.toNat ≤ 65535) {j : Nat}
    (hj : j < h.nbins.toNat) (k : Nat) : ((Histogram.decayAll^[k] h).bin j).toNat ≤ (h.bin j).toNat - k := by
  induction k generalizing h with
  | zero => exact le_rfl
  | succ k ih =>
    have hrest := ih hs.decayAll hbelow hj
    rw [hs.bin_decayAll_toNat] at hrest
    rw [Function.iterate_succ_apply]
    by_cases hzero : h.bin j = 0#32
    · have hstay : h.decayedBin j = 0 := by simp [Histogram.decayedBin, hzero]
      omega
    · have hless := Histogram.decayedBin_lt hbelow hj hzero
      omega

theorem execAll_histDecay (k : Nat) : ∀ {s : State}, s.status.histReady = true →
    ∃ t, execAll (List.replicate k .histDecay) s = some t ∧ t.hist = Histogram.decayAll^[k] s.hist := by
  induction k with
  | zero => exact fun {s} _ => ⟨s, rfl, rfl⟩
  | succ k ih =>
    intro s hready
    obtain ⟨t, hrun, hhist⟩ := ih (s := { s with hist := s.hist.decayAll }.respond .ok 0x42#8 0#16 0#32) hready
    exact ⟨t, (execAll_cons (exec_histDecay_of_ready hready)).trans hrun, hhist⟩

/-- Settles O44: after 2^32 - 1 steps no used bin is left above 0. -/
theorem decayReachesZero : Obligations.DecayReachesZero := by
  intro s hready hsound hbelow
  obtain ⟨k, hk⟩ : ∃ k : Nat, k = 4294967295 := ⟨_, rfl⟩
  obtain ⟨t, hrun, hhist⟩ := execAll_histDecay k hready
  refine ⟨k, t, hrun, fun j hj => BitVec.eq_of_toNat_eq ?_⟩
  have hbin := hsound.bin_iterate_decayAll hbelow hj k
  have hrange := (s.hist.bin j).isLt
  rw [hhist, BitVec.toNat_zero]
  omega

/-! ## The threshold (46_histogram.md R265) -/

section
variable {h : Histogram}

/-- The threshold as a natural number: the model computes it in integers. -/
theorem Histogram.Sound.threshold_eq (hs : h.Sound) : h.threshold = BitVec.ofNat 32
    (h.minVal.toNat + (h.lowPeak + h.highPeak + 1) * (h.maxVal.toNat - h.minVal.toNat) / (2 * h.nbins.toNat)) := by
  obtain ⟨-, -, -, hlt, -⟩ := hs
  rw [Histogram.threshold, toReg, ← Nat.cast_sub hlt.le, ← BitVec.ofInt_natCast]
  norm_cast

/-- Two distinct used bins have their midpoint inside the range (R265). -/
theorem midpoint_range {p1 p2 nb w : Nat} (h1 : p1 < nb) (h2 : p2 < nb) (hne : p1 ≠ p2) (hw : 0 < w) :
    (min p1 p2 + max p1 p2 + 1) * w / (2 * nb) < w
      ∧ (nb ≤ w → 0 < (min p1 p2 + max p1 p2 + 1) * w / (2 * nb)) := by
  rw [min_add_max]
  constructor
  · rw [Nat.div_lt_iff_lt_mul (by omega), mul_comm w]
    exact Nat.mul_lt_mul_of_pos_right (by omega) hw
  · intro hwide
    exact Nat.div_pos (Nat.mul_le_mul (by omega) hwide) (by omega)

/-- The second peak lies outside the window around the first, so the two differ (R264). -/
theorem Histogram.Sound.peaks_distinct (hs : h.Sound) :
    h.peak1 < h.nbins.toNat ∧ h.peak2 < h.nbins.toNat ∧ h.peak1 ≠ h.peak2 := by
  obtain ⟨h1, h2, -, -, hfar, -⟩ := Histogram.isPeaks hs
  exact ⟨h1, h2, by omega⟩

end

/-- Settles O46: the peaks are the model's, and their midpoint lies inside the range. -/
theorem histThrResult : Obligations.HistThrResult := by
  intro s hready hsound lo hi nb
  refine ⟨s.hist.peak1, s.hist.peak2, Histogram.isPeaks hsound, ?_⟩
  intro thr
  obtain ⟨h1, h2, hne⟩ := hsound.peaks_distinct
  have ⟨_, _, _, hlt, _⟩ := hsound
  obtain ⟨hbelow, habove⟩ := midpoint_range h1 h2 hne (w := hi - lo) (by omega)
  have hthr : thr < hi := (Nat.add_lt_add_left hbelow lo).trans_eq (Nat.add_sub_of_le hlt.le)
  refine ⟨Nat.le_add_right _ _, hthr, fun hwide => Nat.lt_add_of_pos_right (habove hwide), ?_⟩
  rw [exec_histThr_of_ready hready, hsound.threshold_eq]
  rfl

/-- In the empty histogram all used bins are equal: the peaks are bin 0 and the first bin outside its window. -/
theorem Histogram.Sound.peaks_cleared {h : Histogram} (hs : h.cleared.Sound) :
    h.cleared.peak1 = 0 ∧ h.cleared.peak2 = h.spread.toNat + 1 := by
  have hempty (i : Nat) : h.cleared.bin i = 0#32 := by
    rw [Histogram.bin, Histogram.cleared_bins]
    simp only [List.getD_eq_getElem?_getD, List.getElem?_replicate]
    split <;> rfl
  obtain ⟨-, -, -, hfirst1, hfar, -, hfirst2⟩ := Histogram.isPeaks hs
  simp only [hempty, lt_irrefl, imp_false, not_lt, Histogram.cleared_spread] at hfirst1 hfirst2 hfar
  have hpeak1 : h.cleared.peak1 = 0 := Nat.le_zero.1 (hfirst1 0)
  rw [hpeak1] at hfirst2 hfar
  have hupper : h.cleared.peak2 ≤ h.spread.toNat + 1 := by
    by_contra habove
    exact absurd (hfirst2 (h.spread.toNat + 1) (by omega)) (by omega)
  exact ⟨hpeak1, by omega⟩

theorem Histogram.cleared_sound {h : Histogram} (hlegal : h.configLegal = true) : h.cleared.Sound :=
  ⟨by rw [Histogram.cleared_bins, List.length_replicate], Histogram.configLegal_iff.1 hlegal⟩

/-- Settles O41: the check of R261 decides, and the empty histogram's peaks are 0 and HIST_SPREAD + 1. -/
theorem histInitStartsOrRejects : Obligations.HistInitStartsOrRejects := by
  intro s lo hi nb sp legal
  constructor
  · intro hlegal
    have hconfig := Histogram.configLegal_iff.2 hlegal
    have hsound := Histogram.cleared_sound hconfig
    obtain ⟨hpeak1, hpeak2⟩ := hsound.peaks_cleared
    have hthreshold : s.hist.cleared.threshold = BitVec.ofNat 32 (lo + (sp + 2) * (hi - lo) / (2 * nb)) := by
      rw [hsound.threshold_eq, Histogram.lowPeak, Histogram.highPeak, min_add_max, hpeak1, hpeak2, Nat.zero_add]
      rfl
    rw [← hthreshold]
    exact if_pos hconfig
  · intro hillegal
    exact if_neg (mt Histogram.configLegal_iff.1 hillegal)

/-! ## Two clusters (46_histogram.md section 4) -/

/-- A used bin that is not 0 is one of the two clusters; the peaks are not 0, as a cluster competes with each. -/
theorem Histogram.IsPeaks.eq_clusters {h : Histogram} {p1 p2 i j : Nat} (hp : h.IsPeaks p1 p2) (hij : i < j)
    (hj : j < h.nbins.toNat) (hfar : h.spread.toNat < j - i) (hbini : h.bin i ≠ 0#32) (hbinj : h.bin j ≠ 0#32)
    (hrest : ∀ k, k < h.nbins.toNat → k ≠ i → k ≠ j → h.bin k = 0#32) : p1 = i ∧ p2 = j ∨ p1 = j ∧ p2 = i := by
  obtain ⟨hlt1, hlt2, hmax1, -, hwindow, hmax2, -⟩ := hp
  have hpos {k : Nat} (hne : h.bin k ≠ 0#32) : 0 < (h.bin k).toNat :=
    Nat.pos_of_ne_zero fun hzero => hne (BitVec.eq_of_toNat_eq hzero)
  have hcluster {k : Nat} (hk : k < h.nbins.toNat) (hkpos : 0 < (h.bin k).toNat) : k = i ∨ k = j := by
    by_contra hnot
    rw [not_or] at hnot
    rw [hrest k hk hnot.1 hnot.2] at hkpos
    cases hkpos
  rcases hcluster hlt1 ((hpos hbini).trans_le (hmax1 i (by omega))) with hp1 | hp1 <;> rw [hp1] at hwindow hmax2
  · have hp2 := hcluster hlt2 ((hpos hbinj).trans_le (hmax2 j hj (by omega)))
    omega
  · have hp2 := hcluster hlt2 ((hpos hbini).trans_le (hmax2 i (by omega) (by omega)))
    omega

/-- Settles O47: the peaks are the two clusters in some order, and the pair is ordered by index. -/
theorem twoClustersAreThePeaks : Obligations.TwoClustersAreThePeaks := by
  intro s i j hready hsound hij hj hfar hbini hbinj hrest
  have hpair : s.hist.lowPeak = i ∧ s.hist.highPeak = j ∧ (s.hist.peak1 = i ∨ s.hist.peak1 = j) := by
    unfold Histogram.lowPeak Histogram.highPeak
    rcases (Histogram.isPeaks hsound).eq_clusters hij hj hfar hbini hbinj hrest with ⟨h1, h2⟩ | ⟨h1, h2⟩ <;>
      rw [h1, h2] <;> omega
  obtain ⟨hlow, hhigh, hfirst⟩ := hpair
  refine ⟨s.hist.peak1, hfirst, ?_⟩
  rw [exec_histPeaks_of_ready hready, hlow, hhigh]
  rfl

/-! ## The classifier (47_classifier.md R293, R294) -/

/-- Settles O48: HIST_ADD gives the histogram that is learned, and T_CUR is its threshold before the comparison. -/
theorem decStepTone : Obligations.DecStepTone := by
  intro s ev rest hready hsound hqueue hsign d
  have hrange := (word_toInt_range ev).1
  have hd : ev.toInt.natAbs = d := by omega
  have hdWord : (BitVec.ofNat 32 d).toNat = d := by
    rw [BitVec.toNat_ofNat]
    omega
  have hlearned : (s.hist.add d).Sound := hsound.add d
  obtain ⟨hminVal, hmaxVal, hnbins, -⟩ := s.hist.add_config d
  have hadd := exec_histAdd_of_ready hready (BitVec.ofNat 32 d)
  rw [hdWord] at hadd
  refine ⟨_, (s.hist.add d).peak1, (s.hist.add d).peak2, hadd, Histogram.isPeaks hlearned, ?_⟩
  intro thr
  have hthreshold : (s.hist.add d).threshold = BitVec.ofNat 32 thr := by
    rw [hlearned.threshold_eq, hminVal, hmaxVal, hnbins]
    rfl
  have hthr : (BitVec.ofNat 32 thr).toNat = thr := by
    obtain ⟨h1, h2, hne⟩ := hlearned.peaks_distinct
    rw [hnbins] at h1 h2
    have ⟨_, _, _, hlt, _⟩ := hsound
    obtain ⟨hbelow, -⟩ := midpoint_range h1 h2 hne
      (w := s.hist.maxVal.toNat - s.hist.minVal.toNat) (by omega)
    have hmax := s.hist.maxVal.isLt
    rw [BitVec.toNat_ofNat, Nat.mod_eq_of_lt (by omega)]
  have hlearn : s.hist.learn d = { s.hist.add d with tCur := BitVec.ofNat 32 thr } := by
    rw [Histogram.learn, hthreshold]
  have hdit : symbolPair Symbol.dit.code 0#8 = 0x0001#16 := by decide
  have hdah : symbolPair Symbol.dah.code 0#8 = 0x0002#16 := by decide
  rw [exec_decStep_of_cons hready hqueue, if_pos hsign, hd, State.classifyTone_eq, State.takeEvent_hist, hlearn]
  simp only [toneSymbol, hthr]
  split
  · rw [hdit]
    rfl
  · rw [hdah]
    rfl

/-- Settles O49: a positive event's duration is its unsigned value, and the gap decides as `classifyGap_eq` says. -/
theorem decStepGap : Obligations.DecStepGap := by
  intro s ev rest hready hqueue hsign
  rw [exec_decStep_of_cons hready hqueue, if_neg (by omega), State.classifyGap_eq, State.takeEvent_hist, gapSymbols,
    gapAux]
  by_cases hword : 3 * s.hist.tCur.toNat ≤ ev.toNat
  · have hletter : ev.toNat ≥ s.hist.tCur.toNat := by omega
    simp only [hword, hletter, if_true]
    rfl
  · by_cases hletter : s.hist.tCur.toNat ≤ ev.toNat
    · simp only [hword, hletter, if_true, if_false]
      rfl
    · simp only [hword, hletter, if_false]
      rfl

/-- Settles O50: an empty queue takes the first branch past the READY check. -/
theorem decStepEmpty : Obligations.DecStepEmpty :=
  fun _ hready hqueue => exec_decStep_of_nil hready hqueue

/-- Settles O51: the three arms are the three branches past the READY check. -/
theorem decTimeoutArms : Obligations.DecTimeoutArms := by
  intro s hready
  rw [exec_decTimeout_of_ready hready]
  refine ⟨fun hqueue => if_pos hqueue, fun hqueue hflushed => ?_, fun hqueue hflushed => ?_⟩
  · rw [if_neg (not_not.2 hqueue), if_pos (by simp [hflushed])]
    rfl
  · refine ⟨_, exec_histDecay_of_ready hready, rfl, ?_⟩
    rw [if_neg (not_not.2 hqueue), if_neg (by simp [hflushed])]
    rfl

end Sys2Proof.Machine

namespace Sys2Proof.Machine

/-! ## State ownership (10_state.md R70)

A producer command keeps what `ProducerKeeps` lists. A consumer command is a `ConsumerChange` of the state: which change
it is depends only on the histogram, HIST_READY, IDLE_FLUSHED and, for DEC_STEP and DEC_TIMEOUT, the oldest event. -/

section
variable {s u : State} {i : Instr} {c : StatusCode}

theorem State.recordFailure_keeps (hfail : i.MayFail c) :
    ProducerKeeps s { s with status := s.status.recordFailure c } := by
  cases c with
  | ok | empty | qfull | illegalCmd => exact hfail.elim
  | invalidArg | notInit | badReg | addrErr | notIdle => constructor <;> simp

theorem Effect.producerKeeps (h : Effect s i c u) (hclass : i.cmdClass = .producer) : ProducerKeeps s u := by
  cases h with
  | fails hfail => exact State.recordFailure_keeps hfail
  | reads => exact .refl s
  | fltStep pcm => exact s.fltStep_keeps pcm
  | nrmStep e => exact s.normUpdate_keeps [e]
  | trkInit => constructor <;> simp
  | trkUpdate => exact s.trkUpdate_keeps _
  | edgUpdate => exact s.edgeUpdate_keeps _
  | nstep => exact s.nstepCore_keeps _
  | @procBlock count base =>
    exact { s.runBlock_keeps (blockSamples s count base) with }
  | evtSubmit => exact s.queuePush_keeps _
  | histDecay hi => rcases hi with rfl | rfl <;> cases hclass
  | noEvent | wrreg | sreset | histInit | histAdd | tone | gap | flush => cases hclass

end

/-- Settles O54: the response adds nothing to what the effect keeps. -/
theorem producerLeavesConsumerState : Obligations.ProducerLeavesConsumerState := by
  intro i s t hclass hexec
  obtain ⟨c, u, aux, result, rfl, heffect, -⟩ := effect_of_exec hexec
  have hkeeps := heffect.producerKeeps hclass
  exact ⟨hkeeps.hist, hkeeps.sym, hkeeps.histReady, hkeeps.idleFlushed, hkeeps.illcmd, hkeeps.ctrl, hkeeps.input,
    hkeeps.audOut, hkeeps.queue, hkeeps.normDecay, hkeeps.normEps, hkeeps.trkDecayStep, hkeeps.trkMinRange, hkeeps.bpf,
    hkeeps.lpf⟩

/-! ### Consumer commands are changes of the consumer's state -/

/-- Two states a consumer command cannot tell apart. -/
structure SameForConsumer (c : Instr) (s s' : State) : Prop where
  hist : s'.hist = s.hist
  histReady : s'.status.histReady = s.status.histReady
  idleFlushed : s'.status.idleFlushed = s.status.idleFlushed
  head : c = .decStep ∨ c = .decTimeout → s'.queue.head? = s.queue.head?

/-- What R70 lets a consumer command do in `s`: one response, symbols appended, at most the oldest event taken, the
histogram's configuration kept, and ERR never cleared. -/
structure ConsumerChange.Lawful (k : ConsumerChange) (c : Instr) (s : State) : Prop where
  err : k.err true = true := by rfl
  rsp : ∃ r, ∀ l, k.rsp l = l ++ [r] := by exact ⟨_, fun _ => rfl⟩
  sym : ∃ cs, ∀ l, k.sym l = l ++ cs := by exact ⟨[], fun l => (List.append_nil l).symm⟩
  taken : k.taken = 0 ∨ k.taken = 1 ∧ c = .decStep ∧ s.queue ≠ [] := by exact .inl rfl
  config : (k.hist s.hist).minVal = s.hist.minVal ∧ (k.hist s.hist).maxVal = s.hist.maxVal
    ∧ (k.hist s.hist).nbins = s.hist.nbins ∧ (k.hist s.hist).spread = s.hist.spread
    ∧ (k.hist s.hist).decay = s.hist.decay := by exact ⟨rfl, rfl, rfl, rfl, rfl⟩

/-- From `s`, and from every state the command cannot tell from `s`, the command makes one and the same lawful
change. -/
def ChangesAs (c : Instr) (s : State) : Prop :=
  ∃ k : ConsumerChange, k.Lawful c s ∧ ∀ s', SameForConsumer c s s' → exec c s' = .next (k.on s')

section
variable {s : State}

/-- The change of a failure: ERR and the response (60_exceptions.md R311). -/
def failing (r : CmdWord) : ConsumerChange := { err := fun _ => true, rsp := (· ++ [r]) }

theorem changesAs_of_notReady {c : Instr} (hneeds : c.needs = .histReady) (hready : s.status.histReady = false) :
    ChangesAs c s :=
  ⟨failing (responseWord .notInit c.opc 0#16 0#32), {}, fun _ hsame =>
    exec_of_histReady_false hneeds (hsame.histReady.trans hready)⟩

theorem changesAs_histInit : ChangesAs .histInit s := by
  cases hlegal : s.hist.configLegal with
  | true =>
    refine ⟨{ hist := fun h => { h.cleared with tCur := h.cleared.threshold }
              histReady := fun _ => true
              idleFlushed := fun _ => true
              rsp := (· ++ [responseWord .ok 0x40#8 0#16 s.hist.cleared.threshold]) }, {}, fun s' hsame => ?_⟩
    rw [← hsame.hist] at hlegal ⊢
    exact if_pos hlegal
  | false =>
    refine ⟨failing (responseWord .invalidArg 0x40#8 0#16 0#32), {}, fun s' hsame => ?_⟩
    rw [← hsame.hist] at hlegal
    exact if_neg (by simp [hlegal])

theorem changesAs_histAdd (hready : s.status.histReady = true) (d : Word) : ChangesAs (.histAdd d) s := by
  obtain ⟨hminVal, hmaxVal, hnbins, hspread, hdecay, -⟩ := s.hist.add_config d.toNat
  refine ⟨{ hist := (·.add d.toNat)
            rsp := (· ++ [responseWord .ok 0x41#8 (BitVec.ofNat 16 ((s.hist.index d.toNat).getD 0))
              (if (s.hist.index d.toNat).isSome then 1#32 else 0#32)]) },
    { config := ⟨hminVal, hmaxVal, hnbins, hspread, hdecay⟩ }, fun s' hsame => ?_⟩
  rw [← hsame.hist]
  exact exec_histAdd_of_ready (hsame.histReady.trans hready) d

theorem changesAs_histDecay (hready : s.status.histReady = true) : ChangesAs .histDecay s :=
  ⟨{ hist := Histogram.decayAll, rsp := (· ++ [responseWord .ok 0x42#8 0#16 0#32]) }, {}, fun _ hsame =>
    exec_histDecay_of_ready (hsame.histReady.trans hready)⟩

theorem changesAs_histPeaks (hready : s.status.histReady = true) : ChangesAs .histPeaks s := by
  refine ⟨{ rsp := (· ++ [responseWord .ok 0x43#8 (BitVec.ofNat 16 s.hist.peak1)
    (toRegU (s.hist.highPeak * 65536 + s.hist.lowPeak))]) }, {}, fun s' hsame => ?_⟩
  rw [← hsame.hist]
  exact exec_histPeaks_of_ready (hsame.histReady.trans hready)

theorem changesAs_histThr (hready : s.status.histReady = true) : ChangesAs .histThr s := by
  refine ⟨{ rsp := (· ++ [responseWord .ok 0x44#8 0#16 s.hist.threshold]) }, {}, fun s' hsame => ?_⟩
  rw [← hsame.hist]
  exact exec_histThr_of_ready (hsame.histReady.trans hready)

/-- The change of a falling event: the tone is learned, and its symbol follows from the new threshold (R293). -/
def toneChange (h : Histogram) (d : Nat) (ev : Word) : ConsumerChange where
  hist := (·.learn d)
  idleFlushed := fun _ => false
  sym := (· ++ [toneSymbol d (h.learn d).tCur.toNat])
  rsp := (· ++ [responseWord .ok 0x50#8 (symbolPair (toneSymbol d (h.learn d).tCur.toNat).code 0#8) ev])
  taken := 1

/-- The change of a rising event: the gap is compared with the threshold (R293). -/
def gapChange (h : Histogram) (d : Nat) (ev : Word) : ConsumerChange where
  idleFlushed := fun _ => false
  sym := (· ++ gapSymbols d h.tCur.toNat)
  rsp := (· ++ [responseWord .ok 0x50#8 (gapAux d h.tCur.toNat) ev])
  taken := 1

theorem exec_decStep_eq_change (hready : s.status.histReady = true) {ev : Word} {rest : List Word}
    (hqueue : s.queue = ev :: rest) : exec .decStep s = .next
      (if ev.toInt < 0 then (toneChange s.hist ev.toInt.natAbs ev).on s else (gapChange s.hist ev.toNat ev).on s) := by
  have hrest : rest = s.queue.drop 1 := by rw [hqueue, List.drop_one, List.tail_cons]
  rw [exec_decStep_of_cons hready hqueue, State.classifyTone_eq, State.classifyGap_eq, hrest]
  rfl

/-- An event at the head of the queue is taken, and which event it is decides the change. -/
theorem changesAs_decStep_of_cons (hready : s.status.histReady = true) {ev : Word} {rest : List Word}
    (hqueue : s.queue = ev :: rest) : ChangesAs .decStep s := by
  have hnonempty : s.queue ≠ [] := by simp [hqueue]
  have hexec {s' : State} (hsame : SameForConsumer .decStep s s') : exec .decStep s' = .next
      (if ev.toInt < 0 then (toneChange s.hist ev.toInt.natAbs ev).on s'
      else (gapChange s.hist ev.toNat ev).on s') := by
    have hhead := hsame.head (.inl rfl)
    rw [hqueue, List.head?_cons, List.head?_eq_some_iff] at hhead
    obtain ⟨rest', hqueue'⟩ := hhead
    rw [exec_decStep_eq_change (hsame.histReady.trans hready) hqueue', hsame.hist]
  by_cases hsign : ev.toInt < 0
  · obtain ⟨hminVal, hmaxVal, hnbins, hspread, hdecay, -⟩ := s.hist.add_config ev.toInt.natAbs
    refine ⟨toneChange s.hist ev.toInt.natAbs ev,
      { sym := ⟨_, fun _ => rfl⟩, taken := .inr ⟨rfl, rfl, hnonempty⟩
        config := ⟨hminVal, hmaxVal, hnbins, hspread, hdecay⟩ }, fun s' hsame => ?_⟩
    rw [hexec hsame, if_pos hsign]
  · refine ⟨gapChange s.hist ev.toNat ev, { sym := ⟨_, fun _ => rfl⟩, taken := .inr ⟨rfl, rfl, hnonempty⟩ },
      fun s' hsame => ?_⟩
    rw [hexec hsame, if_neg hsign]

theorem changesAs_decStep (hready : s.status.histReady = true) : ChangesAs .decStep s := by
  cases hqueue : s.queue with
  | nil =>
    refine ⟨{ rsp := (· ++ [responseWord .empty 0x50#8 0#16 0#32]) }, {}, fun s' hsame => ?_⟩
    have hhead := hsame.head (.inl rfl)
    rw [hqueue, List.head?_nil, List.head?_eq_none_iff] at hhead
    exact exec_decStep_of_nil (hsame.histReady.trans hready) hhead
  | cons ev rest => exact changesAs_decStep_of_cons hready hqueue

theorem changesAs_decTimeout (hready : s.status.histReady = true) : ChangesAs .decTimeout s := by
  have hempty {s' : State} (hsame : SameForConsumer .decTimeout s s') : s'.queue = [] ↔ s.queue = [] := by
    rw [← List.head?_eq_none_iff, hsame.head (.inr rfl), List.head?_eq_none_iff]
  have hexec {s' : State} (hsame : SameForConsumer .decTimeout s s') :=
    exec_decTimeout_of_ready (hsame.histReady.trans hready)
  by_cases hqueue : s.queue = []
  · cases hflushed : s.status.idleFlushed with
    | false =>
      refine ⟨{ idleFlushed := fun _ => true, sym := (· ++ [.letter, .flush])
                rsp := (· ++ [responseWord .ok 0x51#8 0x0503#16 0#32]) }, { sym := ⟨_, fun _ => rfl⟩ },
        fun s' hsame => ?_⟩
      rw [hexec hsame, if_neg (not_not.2 ((hempty hsame).2 hqueue)),
        if_pos (by rw [hsame.idleFlushed, hflushed]; rfl)]
      rfl
    | true =>
      refine ⟨{ hist := Histogram.decayAll, rsp := (· ++ [responseWord .ok 0x51#8 0#16 0#32]) }, {},
        fun s' hsame => ?_⟩
      rw [hexec hsame, if_neg (not_not.2 ((hempty hsame).2 hqueue)),
        if_neg (by rw [hsame.idleFlushed, hflushed]; decide)]
      rfl
  · refine ⟨failing (responseWord .notIdle 0x51#8 0#16 0#32), {}, fun s' hsame => ?_⟩
    rw [hexec hsame, if_pos (mt (hempty hsame).1 hqueue)]
    rfl

end

theorem exec_changesAs {c : Instr} (hclass : c.cmdClass = .consumer) (s : State) : ChangesAs c s := by
  cases hready : s.status.histReady with
  | false =>
    cases c with
    | histInit => exact changesAs_histInit
    | histAdd | histDecay | histPeaks | histThr | decStep | decTimeout => exact changesAs_of_notReady rfl hready
    | _ => cases hclass
  | true =>
    cases c with
    | histInit => exact changesAs_histInit
    | histAdd d => exact changesAs_histAdd hready d
    | histDecay => exact changesAs_histDecay hready
    | histPeaks => exact changesAs_histPeaks hready
    | histThr => exact changesAs_histThr hready
    | decStep => exact changesAs_decStep hready
    | decTimeout => exact changesAs_decTimeout hready
    | _ => cases hclass

theorem SameForConsumer.refl (c : Instr) (s : State) : SameForConsumer c s s := ⟨rfl, rfl, rfl, fun _ => rfl⟩

/-- Settles O55: a change of the consumer's state leaves the producer's fields alone, and it is a lawful one. -/
theorem consumerLeavesProducerState : Obligations.ConsumerLeavesProducerState := by
  intro i s t hclass hexec
  obtain ⟨k, hlawful, hchange⟩ := exec_changesAs hclass s
  rw [hchange s (.refl i s)] at hexec
  cases hexec
  have hqueue : (k.on s).queue = s.queue ∨ ∃ ev, s.queue = ev :: (k.on s).queue := by
    rcases hlawful.taken with htaken | ⟨htaken, -, hnonempty⟩
    · exact .inl (by rw [ConsumerChange.on, htaken, List.drop_zero])
    · refine .inr ⟨s.queue.head hnonempty, ?_⟩
      rw [ConsumerChange.on, htaken, List.drop_one, List.cons_head_tail]
  obtain ⟨cs, hsym⟩ := hlawful.sym
  exact ⟨rfl, rfl, rfl, rfl, rfl, rfl, rfl, rfl, rfl, rfl, rfl, rfl, rfl, rfl, rfl, rfl, rfl, hqueue,
    ⟨cs, (hsym s.sym).symm⟩, hlawful.config⟩

/-! ### A producer command commutes with a change of the consumer's state -/

/-- The two outcomes answer the same response, and the second one's state is the change of the first one's. -/
inductive CommutesWith (k : ConsumerChange) (s : State) :
    Host.Outcome State Fault Refusal → Host.Outcome State Fault Refusal → Prop
  | next (b : State) {c : StatusCode} {opc : Byte} {aux : Half} {r : Word} (hrsp : b.rsp = s.rsp) :
      CommutesWith k s (.next (b.respond c opc aux r)) (.next ((k.on b).respond c opc aux r))

/-- Commands that may push an event. -/
def mayPush : Instr → Bool
  | .nstep _ | .procBlock _ _ | .evtSubmit _ => true
  | _ => false

section
variable {k : ConsumerChange} {s : State}

theorem CommutesWith.ite {p : Prop} [Decidable p] {o1 o2 o1' o2' : Host.Outcome State Fault Refusal}
    (h1 : p → CommutesWith k s o1 o1') (h2 : ¬ p → CommutesWith k s o2 o2') :
    CommutesWith k s (if p then o1 else o2) (if p then o1' else o2') := by
  split
  case isTrue hp => exact h1 hp
  case isFalse hp => exact h2 hp

/-- A failure sets ERR, which the change never clears. -/
theorem CommutesWith.raise (herr : k.err true = true) (c : StatusCode) (opc : Byte) :
    CommutesWith k s (.next (s.raise c opc)) (.next ((k.on s).raise c opc)) := by
  have hraise : (k.on s).raise c opc
      = (k.on { s with status := s.status.recordFailure c }).respond c opc 0#16 0#32 := by
    cases c with
    | ok | empty | qfull | illegalCmd => rfl
    | invalidArg | notInit | badReg | addrErr | notIdle => simp [State.raise, State.respond, ConsumerChange.on, herr]
  rw [hraise]
  exact .next { s with status := s.status.recordFailure c } rfl

theorem CommutesWith.check (herr : k.err true = true) {c : StatusCode} {opc : Byte} {p : Prop} [Decidable p]
    {o o' : Host.Outcome State Fault Refusal} (hpassed : ¬ p → CommutesWith k s o o') :
    CommutesWith k s (if p then .next (s.raise c opc) else o) (if p then .next ((k.on s).raise c opc) else o') :=
  .ite (fun _ => .raise herr c opc) hpassed

theorem execProcBlock_commutes (herr : k.err true = true) (count : Half) (base : Word)
    (hroom : ∀ a, exec (.procBlock count base) s = .next a → k.RoomFor s a) :
    CommutesWith k s (execProcBlock count base s) (execProcBlock count base (k.on s)) := by
  refine .check herr fun hready => .check herr fun hmax => .check herr fun haddr =>
    .ite (fun _ => .next s rfl) fun hnonempty => ?_
  rw [blockAddrBad_iff] at haddr
  have hblock : BlockLegal count base := ⟨not_lt.1 hmax, by omega, by omega⟩
  have hcount : 1 ≤ count.toNat := by
    have hne : count.toNat ≠ 0 := fun h => hnonempty (BitVec.eq_of_toNat_eq h)
    omega
  obtain ⟨m, hcopy⟩ := hblock.exists_debugCopy (s := s)
  have hcopyOn : (k.on s).debugCopy base ((k.on s).normalized (blockSamples (k.on s) count base)) = some m := by
    rw [ConsumerChange.on_normalized]
    exact hcopy
  have hroomBlock := hroom _ (hblock.exec_eq (trkReady_of_check hready) hcount hcopy)
  obtain ⟨hrun, hevents⟩ := ConsumerChange.on_runBlock (pcms := blockSamples s count base) hroomBlock
  rw [hblock.readFrames_eq, hblock.readFrames_eq]
  simp only [hcopy, hcopyOn]
  rw [show blockSamples (k.on s) count base = blockSamples s count base from rfl, hrun, hevents]
  exact .next { s.runBlock (blockSamples s count base) with aud := m } (s.runBlock_keeps _).rsp

theorem execNstep_commutes (herr : k.err true = true) (x : Word)
    (hroom : ∀ a, exec (.nstep x) s = .next a → k.RoomFor s a) :
    CommutesWith k s (execNstep x s) (execNstep x (k.on s)) := by
  refine .check herr fun hready => .check herr fun hlegal => ?_
  have hroomCore : k.RoomFor s (s.nstepCore x.toNat) := by
    have hexec := exec_nstep_of_legalSample (trkReady_of_check hready) (by simpa using hlegal)
    exact (hroom _ hexec :)
  rw [ConsumerChange.on_nstepCore hroomCore, ConsumerChange.on_nstepDrops hroomCore, ConsumerChange.on_nstepEvent]
  exact .next _ (s.nstepCore_keeps _).rsp

theorem execEvtSubmit_commutes (herr : k.err true = true) (ev : Word)
    (hroom : ∀ a, exec (.evtSubmit ev) s = .next a → k.RoomFor s a) :
    CommutesWith k s (exec (.evtSubmit ev) s) (exec (.evtSubmit ev) (k.on s)) := by
  by_cases hev : ev = 0#32
  · have hzero (s : State) : exec (.evtSubmit ev) s = .next (s.raise .invalidArg 0x32#8) := if_pos hev
    rw [hzero, hzero]
    exact .raise herr _ _
  · have hroomPush : k.RoomFor s (s.queuePush ev) := (hroom _ (exec_evtSubmit_of_ne_zero hev s) :)
    obtain ⟨hpush, hfull⟩ := ConsumerChange.on_queuePush hroomPush
    rw [exec_evtSubmit_of_ne_zero hev, exec_evtSubmit_of_ne_zero hev, hpush, hfull]
    exact .next _ (s.queuePush_keeps ev).rsp

/-- Every producer command commutes with a change that never clears ERR; a pushing command needs room. -/
theorem exec_commutesWith (herr : k.err true = true) {p : Instr} (hclass : p.cmdClass = .producer)
    (hroom : mayPush p = true → ∀ a, exec p s = .next a → k.RoomFor s a) :
    CommutesWith k s (exec p s) (exec p (k.on s)) := by
  cases p with
  | fltStep pcm => exact .next (s.fltStep pcm) rfl
  | nrmStep e => exact .next (s.normUpdate [e]) rfl
  | trkInit => exact .ite (fun _ => .next _ rfl) fun _ => .raise herr _ _
  | trkUpdate x =>
    exact .check herr fun _ => .check herr fun _ => .next (s.trkUpdate x.toNat) rfl
  | trkMid => exact .check herr fun _ => .next s rfl
  | trkPos => exact .check herr fun _ => .next s rfl
  | trkNeg => exact .check herr fun _ => .next s rfl
  | edgUpdate x =>
    refine .check herr fun _ => .check herr fun _ => ?_
    rw [ConsumerChange.on_edgeUpdate]
    exact .next (s.edgeUpdate x.toNat) (s.edgeUpdate_keeps _).rsp
  | nstep x => exact execNstep_commutes herr x (hroom rfl)
  | procBlock count base => exact execProcBlock_commutes herr count base (hroom rfl)
  | evtSubmit ev => exact execEvtSubmit_commutes herr ev (hroom rfl)
  | _ => cases hclass

end

/-! ### The two orders -/

/-- A command that pushes nothing leaves the queue as it is. -/
theorem Effect.queue_eq_of_not_mayPush {s u : State} {p : Instr} {c : StatusCode} (h : Effect s p c u)
    (hclass : p.cmdClass = .producer) (hpush : mayPush p = false) : u.queue = s.queue := by
  cases h with
  | edgUpdate =>
    obtain ⟨below, valid, count, hstate⟩ := s.edgeUpdate_frame _
    rw [hstate]
  | nstep | procBlock | evtSubmit => cases hpush
  | histDecay hi => rcases hi with rfl | rfl <;> cases hclass
  | noEvent | wrreg | sreset | histInit | histAdd | tone | gap | flush => cases hclass
  | _ => rfl

/-- After a producer command a consumer command finds the same state, if the queue had an event, or one of the two does
not use the queue. -/
theorem sameForConsumer_of_exec {p c : Instr} {s a : State} (hclass : p.cmdClass = .producer)
    (hexec : exec p s = .next a)
    (huse : (c ≠ .decStep ∧ c ≠ .decTimeout) ∨ mayPush p = false ∨ s.queue ≠ []) : SameForConsumer c s a := by
  obtain ⟨code, b, aux, r, rfl, heffect, -⟩ := effect_of_exec hexec
  have hkeeps := heffect.producerKeeps hclass
  refine ⟨hkeeps.hist, hkeeps.histReady, hkeeps.idleFlushed, fun hc => ?_⟩
  rcases huse with ⟨hstep, htimeout⟩ | hpush | hnonempty
  · rcases hc with rfl | rfl <;> contradiction
  · exact congrArg List.head? (heffect.queue_eq_of_not_mayPush hclass hpush)
  · obtain ⟨evs, hqueue⟩ := hkeeps.queue
    rw [State.respond_queue, ← hqueue, List.head?_append_of_ne_nil _ hnonempty]

/-- Both orders, with the consumer command's change applied before and after the producer command. -/
theorem commute_of_room {p c : Instr} {s a t u v : State} (hp : p.cmdClass = .producer) (hc : c.cmdClass = .consumer)
    (huse : (c ≠ .decStep ∧ c ≠ .decTimeout) ∨ mayPush p = false ∨ s.queue ≠ [])
    (hroom : mayPush p = true → c ≠ .decStep ∨ (s.queue.length ≤ 16
      ∧ (a.status.qovf = false ∨ s.qdrop.toNat < 4294967295 ∧ a.qdrop.toNat ≤ s.qdrop.toNat)))
    (hps : exec p s = .next a) (hca : exec c a = .next t) (hcs : exec c s = .next u) (hpu : exec p u = .next v) :
    { t with rsp := s.rsp } = { v with rsp := s.rsp }
      ∧ ∃ rp rc : CmdWord, t.rsp = s.rsp ++ [rp, rc] ∧ v.rsp = s.rsp ++ [rc, rp] := by
  obtain ⟨k, hlawful, hchange⟩ := exec_changesAs hc s
  rw [hchange s (.refl c s)] at hcs
  rw [hchange a (sameForConsumer_of_exec hp hps huse)] at hca
  cases hcs
  cases hca
  have hroomFor : mayPush p = true → ∀ a', exec p s = .next a' → k.RoomFor s a' := by
    intro hpush a' hexec
    rw [hps] at hexec
    cases hexec
    rcases hlawful.taken with htaken | ⟨htaken, hstep, hnonempty⟩
    · exact .inl htaken
    · have hlength := List.length_pos_iff.2 hnonempty
      rcases hroom hpush with hnot | ⟨hcapacity, hkept⟩
      · exact absurd hstep hnot
      · exact .inr ⟨by omega, hcapacity, hkept⟩
  have hcommutes := exec_commutesWith hlawful.err hp hroomFor
  rw [hps, hpu] at hcommutes
  obtain ⟨rc, hrc⟩ := hlawful.rsp
  cases hcommutes with
  | @next b code opc aux r hrsp =>
    refine ⟨rfl, responseWord code opc aux r, rc, (hrc _).trans ?_, ?_⟩
    · rw [State.respond_rsp, hrsp, List.append_assoc]
      rfl
    · rw [State.respond_rsp, ConsumerChange.on, hrc, hrsp, List.append_assoc]
      rfl

/-- Settles O56: with QOVF clear after the producer command nothing was dropped, so the queue has room in
both orders. -/
theorem producerAndConsumerCommute : Obligations.ProducerAndConsumerCommute := by
  intro p c s a t u v hp hc hnonempty hlength hps hqovf
  exact commute_of_room hp hc (.inr (.inr hnonempty)) (fun _ => .inr ⟨hlength, .inl hqovf⟩) hps

theorem mayPush_eq_false {p : Instr} (hnstep : ∀ x, p ≠ .nstep x) (hblock : ∀ n b, p ≠ .procBlock n b)
    (hsubmit : ∀ ev, p ≠ .evtSubmit ev) : mayPush p = false := by
  cases p with
  | nstep x => exact absurd rfl (hnstep x)
  | procBlock n b => exact absurd rfl (hblock n b)
  | evtSubmit ev => exact absurd rfl (hsubmit ev)
  | _ => rfl

/-- Settles O57: a consumer command that takes no event, a producer command that pushes none, or an unsaturated QDROP
that shows that nothing was dropped. -/
theorem producerAndConsumerCommuteOtherwise : Obligations.ProducerAndConsumerCommuteOtherwise := by
  intro p c s a t u v hp hc hcases hps
  rcases hcases with ⟨hstep, htimeout⟩ | ⟨hnstep, hblock, hsubmit⟩ | ⟨hnonempty, hlength, hunsaturated, hqdrop⟩
  · exact commute_of_room hp hc (.inl ⟨hstep, htimeout⟩) (fun _ => .inl hstep) hps
  · have hpush := mayPush_eq_false hnstep hblock hsubmit
    exact commute_of_room hp hc (.inr (.inl hpush)) (fun htrue => by simp [hpush] at htrue) hps
  · exact commute_of_room hp hc (.inr (.inr hnonempty))
      (fun _ => .inr ⟨hlength, .inr ⟨hunsaturated, by rw [hqdrop]⟩⟩) hps

end Sys2Proof.Machine
